-- ==== Sys2Proof/Word.lean ====
section
/-! DEFINITION. The widths of the machine's values (spec/00_scope.md R6, R10): bytes, instruction words and 16-bit
registers, 12-bit immediates, and the 4-bit fields that name a register, a key or a sprite length. -/

namespace Sys2Proof

/-- An 8-bit unsigned value: a memory cell, a general register, a timer (R6 `CELL_W`, `REG_W`, `TIMER_W`). -/
abbrev Byte := BitVec 8

/-- A 16-bit unsigned value: an instruction word, `pc`, `I`, a stack slot (R6 `INSTR_W`, `PC_W`, `I_W`). -/
abbrev Word := BitVec 16

/-- The 12-bit immediate `nnn` (R72). -/
abbrev Imm12 := BitVec 12

/-- A 4-bit unsigned value: the count `n` of `Dxyn` (R72), a key number 0..15 (R172). -/
abbrev Nibble := BitVec 4

/-- The index of a general register, 0..15: the fields `x` and `y` (R20, R72). -/
abbrev RegIx := BitVec 4

/-- R20: an index outside 0..15 cannot be formed. -/
theorem RegIx.toNat_lt (x : RegIx) : x.toNat < 16 := x.isLt

end Sys2Proof
end

