-- ==== Sys2Proof/Syntax.lean ====
section
/-! DEFINITION. The instructions: one constructor for each of the 35 shapes of spec/30_encoding.md R76, with the operand
fields of R72. Each field has exactly the width the encoding gives it. The word that is none of the 35 shapes is no
instruction here: the decoder answers `Decoded.invalid` for it (R77, log 34). -/

namespace Sys2Proof

/-- R76, in the order of its table. The names are the spec's (DESIGN CHOICE of the spec, decision D16, log 21);
`ret` stands for `Return`, a word Lean keeps for itself. -/
inductive Instr where
  /-- `0nnn`, R101. -/
  | sysCall (n : Imm12)
  /-- `00E0`, R150. -/
  | clearScreen
  /-- `00EE` Return, R102. -/
  | ret
  /-- `1nnn`, R103. -/
  | jump (n : Imm12)
  /-- `2nnn`, R104. -/
  | call (n : Imm12)
  /-- `3xkk`, R110. -/
  | skipEqImm (x : RegIx) (k : Byte)
  /-- `4xkk`, R111. -/
  | skipNeImm (x : RegIx) (k : Byte)
  /-- `5xy0`, R112. -/
  | skipEqReg (x y : RegIx)
  /-- `9xy0`, R113. -/
  | skipNeReg (x y : RegIx)
  /-- `6xkk`, R123. -/
  | loadImmediate (x : RegIx) (k : Byte)
  /-- `7xkk`, R124. -/
  | addImmediate (x : RegIx) (k : Byte)
  /-- `8xy0`, R125. -/
  | move (x y : RegIx)
  /-- `8xy1`, R126. -/
  | or (x y : RegIx)
  /-- `8xy2`, R127. -/
  | and (x y : RegIx)
  /-- `8xy3`, R128. -/
  | xor (x y : RegIx)
  /-- `8xy4`, R129. -/
  | add (x y : RegIx)
  /-- `8xy5`, R130. -/
  | sub (x y : RegIx)
  /-- `8xy6`, R131; `y` is carried and not used (R79). -/
  | shiftRight (x y : RegIx)
  /-- `8xy7`, R132. -/
  | subReverse (x y : RegIx)
  /-- `8xyE`, R133; `y` is carried and not used (R79). -/
  | shiftLeft (x y : RegIx)
  /-- `Annn`, R140. -/
  | loadIndex (n : Imm12)
  /-- `Bnnn`, R105. -/
  | jumpOffset (n : Imm12)
  /-- `Cxkk`, R134. -/
  | random (x : RegIx) (k : Byte)
  /-- `Dxyn`, R151. -/
  | draw (x y : RegIx) (n : Nibble)
  /-- `Ex9E`, R114. -/
  | skipKeyDown (x : RegIx)
  /-- `ExA1`, R115. -/
  | skipKeyUp (x : RegIx)
  /-- `Fx07`, R152. -/
  | readDelay (x : RegIx)
  /-- `Fx15`, R154. -/
  | setDelay (x : RegIx)
  /-- `Fx18`, R155. -/
  | setSound (x : RegIx)
  /-- `Fx0A`, R153. -/
  | waitKey (x : RegIx)
  /-- `Fx1E`, R141. -/
  | addIndex (x : RegIx)
  /-- `Fx29`, R142. -/
  | fontAddr (x : RegIx)
  /-- `Fx33`, R143. -/
  | storeBcd (x : RegIx)
  /-- `Fx55`, R144. -/
  | storeRegs (x : RegIx)
  /-- `Fx65`, R145. -/
  | loadRegs (x : RegIx)
  deriving DecidableEq, Repr

end Sys2Proof
end

