-- ==== Sys2Proof/WellFormed.lean ====
section
/-! DEFINITION. Which terms of `Instr` are instructions of the machine. The field types have the widths of the encoding, so
the one thing left to check is the exception of spec/30_encoding.md R76, row 1: the words `0x00E0` and `0x00EE` are
`ClearScreen` and `Return`, never `SysCall`. -/

namespace Sys2Proof

/-- R76, R78: `SysCall{n}` exists for every `n` but `0x0E0` and `0x0EE`; every other term is an instruction. -/
def Instr.wellFormed : Instr → Bool
  | .sysCall n => n != 0x0E0#12 && n != 0x0EE#12
  | .clearScreen | .ret | .jump _ | .call _ | .skipEqImm _ _ | .skipNeImm _ _ | .skipEqReg _ _ | .skipNeReg _ _
  | .loadImmediate _ _ | .addImmediate _ _ | .move _ _ | .or _ _ | .and _ _ | .xor _ _ | .add _ _ | .sub _ _
  | .shiftRight _ _ | .subReverse _ _ | .shiftLeft _ _ | .loadIndex _ | .jumpOffset _ | .random _ _ | .draw _ _ _
  | .skipKeyDown _ | .skipKeyUp _ | .readDelay _ | .setDelay _ | .setSound _ | .waitKey _ | .addIndex _ | .fontAddr _
  | .storeBcd _ | .storeRegs _ | .loadRegs _ => true

end Sys2Proof
end

