-- ==== Sys2Proof/Decode.lean ====
section
/-! DEFINITION. The decoder of spec/30_encoding.md R75, total on every word and rejecting by name, its reading of a list
of bytes, and the encoder written from the patterns of R73 and R76. -/

namespace Sys2Proof

/-- The decoder's answer: one of the 35 shapes, or `Invalid{code}` carrying the original word (R75, R77). -/
inductive Decoded where
  | shape (i : Instr)
  | invalid (code : Word)
  deriving DecidableEq, Repr

/-- Why a list of bytes is no instruction: fewer than two bytes, or a word that is none of the 35 shapes. -/
inductive DecodeError where
  | truncated
  | invalid (code : Word)
  deriving DecidableEq, Repr

/-! ## Fields (R72) -/

/-- `op` = `w[15:12]`, the top nibble. -/
def opField (w : Word) : Nibble := w.extractLsb' 12 4

/-- `x` = `w[11:8]`. -/
def xField (w : Word) : RegIx := w.extractLsb' 8 4

/-- `y` = `w[7:4]`. -/
def yField (w : Word) : RegIx := w.extractLsb' 4 4

/-- `n` = `w[3:0]`, the bottom nibble. -/
def nField (w : Word) : Nibble := w.extractLsb' 0 4

/-- `kk` = `w[7:0]`, the bottom byte. -/
def kkField (w : Word) : Byte := w.extractLsb' 0 8

/-- `nnn` = `w[11:0]`. -/
def nnnField (w : Word) : Imm12 := w.extractLsb' 0 12

/-! ## The decoder (R75) -/

/-- Group 8: switch on the bottom nibble (R75). -/
def decodeGroup8 (w : Word) : Decoded :=
  match (nField w).toNat with
  | 0x0 => .shape (.move (xField w) (yField w))
  | 0x1 => .shape (.or (xField w) (yField w))
  | 0x2 => .shape (.and (xField w) (yField w))
  | 0x3 => .shape (.xor (xField w) (yField w))
  | 0x4 => .shape (.add (xField w) (yField w))
  | 0x5 => .shape (.sub (xField w) (yField w))
  | 0x6 => .shape (.shiftRight (xField w) (yField w))
  | 0x7 => .shape (.subReverse (xField w) (yField w))
  | 0xE => .shape (.shiftLeft (xField w) (yField w))
  | _ => .invalid w

/-- Group E: switch on the bottom byte (R75). -/
def decodeGroupE (w : Word) : Decoded :=
  match (kkField w).toNat with
  | 0x9E => .shape (.skipKeyDown (xField w))
  | 0xA1 => .shape (.skipKeyUp (xField w))
  | _ => .invalid w

/-- Group F: switch on the bottom byte (R75). -/
def decodeGroupF (w : Word) : Decoded :=
  match (kkField w).toNat with
  | 0x07 => .shape (.readDelay (xField w))
  | 0x0A => .shape (.waitKey (xField w))
  | 0x15 => .shape (.setDelay (xField w))
  | 0x18 => .shape (.setSound (xField w))
  | 0x1E => .shape (.addIndex (xField w))
  | 0x29 => .shape (.fontAddr (xField w))
  | 0x33 => .shape (.storeBcd (xField w))
  | 0x55 => .shape (.storeRegs (xField w))
  | 0x65 => .shape (.loadRegs (xField w))
  | _ => .invalid w

/-- The switch on the top nibble (R75). -/
def decodeTopNibble (w : Word) : Decoded :=
  match (opField w).toNat with
  | 0x0 => .shape (.sysCall (nnnField w))
  | 0x1 => .shape (.jump (nnnField w))
  | 0x2 => .shape (.call (nnnField w))
  | 0x3 => .shape (.skipEqImm (xField w) (kkField w))
  | 0x4 => .shape (.skipNeImm (xField w) (kkField w))
  | 0x5 => if nField w = 0x0#4 then .shape (.skipEqReg (xField w) (yField w)) else .invalid w
  | 0x6 => .shape (.loadImmediate (xField w) (kkField w))
  | 0x7 => .shape (.addImmediate (xField w) (kkField w))
  | 0x8 => decodeGroup8 w
  | 0x9 => if nField w = 0x0#4 then .shape (.skipNeReg (xField w) (yField w)) else .invalid w
  | 0xA => .shape (.loadIndex (nnnField w))
  | 0xB => .shape (.jumpOffset (nnnField w))
  | 0xC => .shape (.random (xField w) (kkField w))
  | 0xD => .shape (.draw (xField w) (yField w) (nField w))
  | 0xE => decodeGroupE w
  | 0xF => decodeGroupF w
  | _ => .invalid w -- a nibble is below 16: this arm is never taken

/-- `Decode(w)` of R75: the two full-word literals first, then the top nibble. -/
def decode (w : Word) : Decoded :=
  if w = 0x00E0#16 then .shape .clearScreen
  else if w = 0x00EE#16 then .shape .ret
  else decodeTopNibble w

/-! ## Bytes (R58, R70, R71) -/

/-- The word of two consecutive bytes: the byte at the lower address is the more significant (R53, R71). -/
def wordOfBytes (hi lo : Byte) : Word := hi ++ lo

/-- The bytes of a word in ascending address order (R58, R81). -/
def bytesOfWord (w : Word) : List Byte := [w.extractLsb' 8 8, w.extractLsb' 0 8]

/-- Reads one instruction off the front of a list of bytes and gives the rest (R70: always two bytes). -/
def decodeBytes : List Byte → Except DecodeError (Instr × List Byte)
  | hi :: lo :: rest =>
    match decode (wordOfBytes hi lo) with
    | .shape i => .ok (i, rest)
    | .invalid code => .error (.invalid code)
  | _ => .error .truncated

/-- The instruction the decoder reads from an opcode-table word of `nbits` bits (every row has 16: R70), laid out as the
hardware stores it. -/
def decodeTableWord (nbits w : Nat) : Option Instr :=
  match decodeBytes (bytesOfWord (BitVec.ofNat 16 (w % 2 ^ nbits))) with
  | .ok (i, _) => some i
  | .error _ => none

/-! ## The encoder (R73, R76, R81) -/

/-- Format `A`: `op[15:12] nnn[11:0]`. -/
def formatA (op : Nibble) (n : Imm12) : Word := op ++ n

/-- Format `XK`: `op[15:12] x[11:8] kk[7:0]`. -/
def formatXK (op : Nibble) (x : RegIx) (k : Byte) : Word := op ++ x ++ k

/-- Formats `XY` and `XYN`: `op[15:12] x[11:8] y[7:4] n[3:0]`. -/
def formatXYN (op : Nibble) (x y : RegIx) (n : Nibble) : Word := op ++ x ++ y ++ n

/-- Format `X`: `op[15:12] x[11:8] sub[7:0]`. -/
def formatX (op : Nibble) (x : RegIx) (sub : Byte) : Word := op ++ x ++ sub

/-- The word of an instruction: its field values put into its pattern (R81). -/
def encode : Instr → Word
  | .sysCall n => formatA 0x0 n
  | .clearScreen => 0x00E0
  | .ret => 0x00EE
  | .jump n => formatA 0x1 n
  | .call n => formatA 0x2 n
  | .skipEqImm x k => formatXK 0x3 x k
  | .skipNeImm x k => formatXK 0x4 x k
  | .skipEqReg x y => formatXYN 0x5 x y 0x0
  | .skipNeReg x y => formatXYN 0x9 x y 0x0
  | .loadImmediate x k => formatXK 0x6 x k
  | .addImmediate x k => formatXK 0x7 x k
  | .move x y => formatXYN 0x8 x y 0x0
  | .or x y => formatXYN 0x8 x y 0x1
  | .and x y => formatXYN 0x8 x y 0x2
  | .xor x y => formatXYN 0x8 x y 0x3
  | .add x y => formatXYN 0x8 x y 0x4
  | .sub x y => formatXYN 0x8 x y 0x5
  | .shiftRight x y => formatXYN 0x8 x y 0x6
  | .subReverse x y => formatXYN 0x8 x y 0x7
  | .shiftLeft x y => formatXYN 0x8 x y 0xE
  | .loadIndex n => formatA 0xA n
  | .jumpOffset n => formatA 0xB n
  | .random x k => formatXK 0xC x k
  | .draw x y n => formatXYN 0xD x y n
  | .skipKeyDown x => formatX 0xE x 0x9E
  | .skipKeyUp x => formatX 0xE x 0xA1
  | .readDelay x => formatX 0xF x 0x07
  | .setDelay x => formatX 0xF x 0x15
  | .setSound x => formatX 0xF x 0x18
  | .waitKey x => formatX 0xF x 0x0A
  | .addIndex x => formatX 0xF x 0x1E
  | .fontAddr x => formatX 0xF x 0x29
  | .storeBcd x => formatX 0xF x 0x33
  | .storeRegs x => formatX 0xF x 0x55
  | .loadRegs x => formatX 0xF x 0x65

/-! ## The opcode map as a table of masks (R76) -/

/-- The mask and the match of an instruction's row of R76. -/
def Instr.row : Instr → Word × Word
  | .sysCall _ => (0xF000, 0x0000)
  | .clearScreen => (0xFFFF, 0x00E0)
  | .ret => (0xFFFF, 0x00EE)
  | .jump _ => (0xF000, 0x1000)
  | .call _ => (0xF000, 0x2000)
  | .skipEqImm _ _ => (0xF000, 0x3000)
  | .skipNeImm _ _ => (0xF000, 0x4000)
  | .skipEqReg _ _ => (0xF00F, 0x5000)
  | .skipNeReg _ _ => (0xF00F, 0x9000)
  | .loadImmediate _ _ => (0xF000, 0x6000)
  | .addImmediate _ _ => (0xF000, 0x7000)
  | .move _ _ => (0xF00F, 0x8000)
  | .or _ _ => (0xF00F, 0x8001)
  | .and _ _ => (0xF00F, 0x8002)
  | .xor _ _ => (0xF00F, 0x8003)
  | .add _ _ => (0xF00F, 0x8004)
  | .sub _ _ => (0xF00F, 0x8005)
  | .shiftRight _ _ => (0xF00F, 0x8006)
  | .subReverse _ _ => (0xF00F, 0x8007)
  | .shiftLeft _ _ => (0xF00F, 0x800E)
  | .loadIndex _ => (0xF000, 0xA000)
  | .jumpOffset _ => (0xF000, 0xB000)
  | .random _ _ => (0xF000, 0xC000)
  | .draw _ _ _ => (0xF000, 0xD000)
  | .skipKeyDown _ => (0xF0FF, 0xE09E)
  | .skipKeyUp _ => (0xF0FF, 0xE0A1)
  | .readDelay _ => (0xF0FF, 0xF007)
  | .setDelay _ => (0xF0FF, 0xF015)
  | .setSound _ => (0xF0FF, 0xF018)
  | .waitKey _ => (0xF0FF, 0xF00A)
  | .addIndex _ => (0xF0FF, 0xF01E)
  | .fontAddr _ => (0xF0FF, 0xF029)
  | .storeBcd _ => (0xF0FF, 0xF033)
  | .storeRegs _ => (0xF0FF, 0xF055)
  | .loadRegs _ => (0xF0FF, 0xF065)

end Sys2Proof
end

