-- ==== Sys2Proof/Config.lean ====
section
/-! DEFINITION. What is fixed for this machine (spec/00_scope.md R6, R7) and the free values: the answers of the
collaborators, which the spec does not constrain (R176 to R178, decision D21). A free value is an opaque constant
without a body, so no proof can see what it is. -/

namespace Sys2Proof.Config

/-- `MEM_SIZE`: the addresses are 0..4095 (R6, R50). -/
def memSize : Nat := 4096

/-- `STACK_DEPTH`: at most 16 live return addresses (R6, R27; DESIGN CHOICE of the spec, decision D1, log 8). -/
def stackDepth : Nat := 16

/-- `PC_RESET` (R6, R23). -/
def pcReset : Word := 0x200#16

/-- `PROGRAM_BASE`: the loader copies the program image here (R6, R192). -/
def programBase : Nat := 0x200

/-- `FONT_BASE`: the loader copies the 80 font bytes here, and `Fx29` counts glyphs from here (R6, R142, R192). -/
def fontBase : Nat := 0x050

/-- `GLYPH_STRIDE`: bytes per glyph (R6, R142). -/
def glyphStride : Nat := 5

/-- `RESET_V` (R7; DESIGN CHOICE of the spec, decision D4, log 1; unsafe). -/
def resetV : Byte := 0#8

/-- `RESET_I` (R7; DESIGN CHOICE of the spec, decision D4, log 1; unsafe). -/
def resetI : Word := 0#16

/-- `RESET_DT` (R7; DESIGN CHOICE of the spec, decision D4, log 1; unsafe). -/
def resetDt : Byte := 0#8

/-- `RESET_ST` (R7; DESIGN CHOICE of the spec, decision D4, log 1; unsafe). -/
def resetSt : Byte := 0#8

/-- `RESET_STACK` (R7, R28; DESIGN CHOICE of the spec, decision D4, log 1; unsafe). -/
def resetStack : Word := 0#16

/-- `RESET_MEM_FILL`: what a byte that nothing has written reads as (R7, R35; DESIGN CHOICE of the spec,
decision D4, log 2; unsafe). -/
def memFill : Byte := 0#8

/-- Free value: the display's answer to the `n`-th question asked, where State lists no answer (R176; log 5; safe). -/
opaque freeCollided : Nat → Bool

/-- Free value: the keypad's answer to the `n`-th question, about this key number, where State lists no answer
(R177, decision D12; log 5; safe). -/
opaque freeKeyDown : Nat → Byte → Bool

/-- Free value: the byte drawn at the `n`-th question, where State lists no answer (R178; log 5; safe). -/
opaque freeRandByte : Nat → Byte

end Sys2Proof.Config
end

