-- ==== Sys2Proof/Machine/State.lean ====
section
/-! DEFINITION. The state of spec/10_state.md as plain data, with the ports of spec/60_exceptions.md R183, and the state
after reset (R38). -/

namespace Sys2Proof.Machine

/-- The five errors (R161, R34). Raising one halts the machine (R168); only `invalidOpcode` carries data. -/
inductive ExecError where
  /-- A fetch or an access outside 0..4095 (R162). -/
  | addressOutOfRange
  /-- Execution of `Invalid{code}` (R163). -/
  | invalidOpcode (code : Word)
  /-- Execution of `0nnn` (R164). -/
  | unsupported
  /-- `2nnn` with 16 live entries (R165). -/
  | stackOverflow
  /-- `00EE` with no live entry (R166). -/
  | stackUnderflow
  deriving DecidableEq, Repr

/-- The run state of the whole machine (R32 to R34). -/
inductive RunState where
  | running
  /-- An `Fx0A` waits for a key that goes to `V[x]` (R33). -/
  | awaitingKey (x : RegIx)
  /-- Terminal: only constructing a new instance leaves it (R170). -/
  | halted (e : ExecError)
  deriving DecidableEq, Repr

/-- What an agent outside the core asks of the machine (R9, R183, R201). -/
inductive Request where
  /-- Port `step`: the driver asks for one `Cycle()` (R160). -/
  | cycle
  /-- Port `key_event`: a key event, 4 bits wide (R172, decision D13). -/
  | keyEvent (key : Nibble)
  /-- Port `timer_tick` (R175). -/
  | timerTick
  /-- The driver discards the instance, constructs a new one (R190) and runs the loader once (R192): 80 font bytes and
  the program image. -/
  | construct (font : Vector Byte 80) (program : List Byte)
  deriving DecidableEq, Repr

/-- A call the core makes to a collaborator (R176 to R178). -/
inductive Call where
  | displayClear
  | displayDraw (x y : Byte) (rows : List Byte)
  | keyDown (key : Byte)
  | randomByte
  deriving DecidableEq, Repr

/-- The ports of R183 as data: the MODEL's own fields (log 4, 5, 6). -/
structure Ports where
  /-- Requests not yet served, oldest first; with none, the driver is taken to ask for a cycle (log 4). -/
  requests : List Request
  /-- Answers of the display not yet used (`disp_collided`), oldest first (log 5). -/
  collided : List Bool
  /-- Answers of the keypad not yet used (`key_down`), oldest first (log 5). -/
  keyDown : List Bool
  /-- Bytes of the random source not yet used (`rand_byte`), oldest first (log 5). -/
  randByte : List Byte
  /-- How many answers have been asked for: it selects the free value where an answer list is empty (log 5). -/
  asked : Nat
  /-- The calls made so far, oldest first (log 6). -/
  calls : List Call
  deriving DecidableEq, Repr

/-- Memory: (address, byte) pairs in the canonical form `Memory.wf` (R35, R50; log 2). -/
abbrev Memory := List Host.Cell

/-- The whole state (R20 to R35, R39) and the ports. -/
structure State where
  /-- `V0`..`VF` (R20). -/
  v : Vector Byte 16
  /-- The program counter (R23). -/
  pc : Word
  /-- The index register `I` (R26). -/
  i : Word
  /-- The number of live return addresses, 0..16 (R27; log 8). -/
  sp : Fin 17
  /-- The 16 slots of the call stack; the live ones are those below `sp` (R28). -/
  stack : Vector Word 16
  /-- `DT`, the delay timer (R31). -/
  dt : Byte
  /-- `ST`, the sound timer (R31). -/
  st : Byte
  /-- The run state (R32). -/
  run : RunState
  /-- The 4096 memory cells (R35). -/
  mem : Memory
  /-- The ports (R183). -/
  ports : Ports
  deriving DecidableEq, Repr

/-- Why a step of the model would stop with a fault: nothing does. Every error of this machine has an effect the spec
gives, `run <- Halted(E)` (R168), and is a next state (log 7). Safe. -/
inductive Fault where
  deriving DecidableEq, Repr

/-- Why the model refuses to go on. -/
inductive Refusal where
  /-- Raised by an arm of `exec` whose instruction has no meaning yet; safe. No arm raises it now. -/
  | notModelled (mnemonic : String)
  /-- Raised by `Request.construct` with an image of more than 3584 bytes: the loader fails and no machine run exists
  (R193, spec/93 U18); safe. -/
  | programImageTooLong
  deriving DecidableEq, Repr

/-- The ports of a machine nobody has asked anything yet (log 4, 5, 6). -/
def Ports.reset : Ports :=
  { requests := [], collided := [], keyDown := [], randByte := [], asked := 0, calls := [] }

/-- R38: `pc` and `run` are stated; every other register holds the value of log 1, and memory lists nothing (log 2). This
is the machine before the loader has run (log 3). -/
def State.reset : State :=
  { v := Vector.replicate 16 Config.resetV
    pc := Config.pcReset
    i := Config.resetI
    sp := 0
    stack := Vector.replicate 16 Config.resetStack
    dt := Config.resetDt
    st := Config.resetSt
    run := .running
    mem := []
    ports := Ports.reset }

end Sys2Proof.Machine
end

