-- ==== Sys2Proof/Machine/Ops.lean ====
section
/-! DEFINITION. The named operations over registers, memory and the call stack (spec/10_state.md, spec/20_memory.md), and
raising an error, the machine's only exception (spec/60_exceptions.md R168). -/

namespace Sys2Proof.Machine

/-! ## Registers -/

/-- `V[x]` (R12, R20). -/
def State.reg (s : State) (x : RegIx) : Byte := s.v[x.toNat]'x.toNat_lt

/-- `V[x] <- b` (R12, R20): every one of the 16 is an ordinary register. -/
def State.setReg (s : State) (x : RegIx) (b : Byte) : State := { s with v := s.v.set x.toNat b x.toNat_lt }

/-- `V[j] <- bytes[j]` for every `j` the list reaches; the other registers keep their value (R145). -/
def State.setRegs (s : State) (bytes : List Byte) : State :=
  { s with v := Vector.ofFn fun j : Fin 16 => bytes.getD j.val s.v[j.val] }

/-- `pc <- w`. -/
def State.setPc (s : State) (w : Word) : State := { s with pc := w }

/-- `I <- w`. -/
def State.setI (s : State) (w : Word) : State := { s with i := w }

/-- `DT <- b`. -/
def State.setDt (s : State) (b : Byte) : State := { s with dt := b }

/-- `ST <- b`. -/
def State.setSt (s : State) (b : Byte) : State := { s with st := b }

/-- `run <- r`. -/
def State.setRun (s : State) (r : RunState) : State := { s with run := r }

/-- Memory replaced as a whole. -/
def State.setMem (s : State) (m : Memory) : State := { s with mem := m }

/-- The ports replaced as a whole. -/
def State.setPorts (s : State) (p : Ports) : State := { s with ports := p }

/-- `sp` read as the 8-bit value the register has (R27, R39). -/
def State.spByte (s : State) : Byte := BitVec.ofNat 8 s.sp.val

/-- The sequential advance of R24: `pc <- (pc + 2) mod 65536`. -/
def State.advance (s : State) : State := s.setPc (s.pc + 2)

/-- The advance of the skips (R24, R109): by 4 in total if the condition holds, else by 2. -/
def State.skipIf (s : State) (c : Bool) : State := s.setPc (s.pc + (if c then 4 else 2))

/-! ## Memory (R50 to R57) -/

/-- The byte at an address: the listed one, or the fill for an address that is not listed. -/
def Memory.get : Memory → Nat → Byte
  | [], _ => Config.memFill
  | (k, c) :: rest, a => if k = a then c else Memory.get rest a

/-- Puts an entry in its place in the rising order of addresses. -/
def Memory.insert : Memory → Nat → Byte → Memory
  | [], a, b => [(a, b)]
  | (k, c) :: rest, a, b =>
    if a < k then (a, b) :: (k, c) :: rest
    else if k = a then (a, b) :: rest
    else (k, c) :: Memory.insert rest a b

/-- Removes an address from the list. -/
def Memory.erase (m : Memory) (a : Nat) : Memory := m.filter fun c => c.1 != a

/-- `mem[a] <- b` on the canonical form: writing the fill removes the entry. -/
def Memory.put (m : Memory) (a : Nat) (b : Byte) : Memory := if b = Config.memFill then m.erase a else m.insert a b

/-- `mem[a + j] <- bytes[j]` for every `j` (R56). -/
def Memory.putAll : Memory → Nat → List Byte → Memory
  | m, _, [] => m
  | m, a, b :: bs => Memory.putAll (m.put a b) (a + 1) bs

/-- The canonical form: addresses strictly rising, each a valid address (R50), no byte equal to the fill. -/
abbrev Memory.wf (m : Memory) : Prop :=
  m.Pairwise (fun p q => p.1 < q.1) ∧ ∀ c ∈ m, c.1 < Config.memSize ∧ c.2 ≠ Config.memFill

/-- `mem[a]` of the state. -/
def State.byte (s : State) (a : Nat) : Byte := s.mem.get a

/-- `MemRead(addr, 1)` (R52). The address is an exact natural number, never reduced (R57). -/
def memRead (m : Memory) (addr : Nat) : Except ExecError Byte :=
  if addr < Config.memSize then .ok (m.get addr) else .error .addressOutOfRange

/-- `MemRead(addr, 2)` (R53): big-endian. -/
def memReadWord (m : Memory) (addr : Nat) : Except ExecError Word :=
  if addr + 1 < Config.memSize then .ok (m.get addr ++ m.get (addr + 1)) else .error .addressOutOfRange

/-- `MemReadRange(from, to)` (R54): the end is exclusive; an empty range never raises (decision D6, log 11). -/
def memReadRange (m : Memory) (start stop : Nat) : Except ExecError (List Byte) :=
  if start < stop ∧ Config.memSize < stop then .error .addressOutOfRange
  else .ok ((List.range' start (stop - start)).map m.get)

/-- `MemWrite(addr, 1, b)` (R55). -/
def memWrite (m : Memory) (addr : Nat) (b : Byte) : Except ExecError Memory :=
  if addr < Config.memSize then .ok (m.put addr b) else .error .addressOutOfRange

/-- `MemCopy(addr, bytes)` (R56): the whole range is checked before anything is written (decisions D3, D6; log 9, 11). -/
def memCopy (m : Memory) (addr : Nat) (bytes : List Byte) : Except ExecError Memory :=
  if 0 < bytes.length ∧ Config.memSize < addr + bytes.length then .error .addressOutOfRange
  else .ok (m.putAll addr bytes)

/-! ## The call stack (R27 to R30) -/

/-- `Push(addr)` (R29): the check comes first; the slot written is `stack[sp]` (decisions D1, D2; log 8). -/
def State.push (s : State) (addr : Word) : Except ExecError State :=
  if h : s.sp.val = Config.stackDepth then .error .stackOverflow
  else
    have hlt : s.sp.val < 16 := by have := s.sp.isLt; simp only [Config.stackDepth] at h; omega
    .ok { s with stack := s.stack.set s.sp.val addr hlt, sp := ⟨s.sp.val + 1, by omega⟩ }

/-- `Pop()` (R30): reads the top, decrements `sp` and sets `pc`; the slot keeps its value. -/
def State.pop (s : State) : Except ExecError State :=
  if h : s.sp.val = 0 then .error .stackUnderflow
  else
    have hlt : s.sp.val - 1 < 16 := by have := s.sp.isLt; omega
    .ok { s with pc := s.stack[s.sp.val - 1], sp := ⟨s.sp.val - 1, by omega⟩ }

/-! ## Raising an error (R15, R161, R168, R169) -/

/-- The number of an error in the table of R161 (a label only: decision D17, log 22). -/
def ExecError.number : ExecError → Nat
  | .addressOutOfRange => 1
  | .invalidOpcode _ => 2
  | .unsupported => 3
  | .stackOverflow => 4
  | .stackUnderflow => 5

/-- R168: halt entry. The whole effect is `run <- Halted(E)`: nothing is saved, `pc` keeps the address of the instruction
that raised. There is no return from it (R170): only constructing a new instance leaves `Halted`. -/
def State.raise (s : State) (e : ExecError) : State := s.setRun (.halted e)

/-- The outcome of an instruction that may raise: the checked result, or the halt entry on the state the instruction
started from, so that a step that raises has written nothing else (R15, R169; decision D3, log 9). -/
def attempt (s : State) (r : Except ExecError State) : Host.Outcome State Fault Refusal :=
  .next (match r with
    | .ok t => t
    | .error e => s.raise e)

end Sys2Proof.Machine
end

