-- ==== Sys2Proof/Machine/Operands.lean ====
section
/-! DEFINITION. The operand forms of spec/30_encoding.md R74: immediates, implicit registers, the base `I` with its exact
offset, and the byte lists the memory instructions move. -/

namespace Sys2Proof.Machine

/-- The register the flags go to: `VF` = `V[15]` (R21). -/
def vf : RegIx := 0xF#4

/-- `zext_16(nnn)` (R74). -/
def zextImm (n : Imm12) : Word := n.setWidth 16

/-- `zext_16(V[x])` (R74, R141). -/
def zextReg (b : Byte) : Word := b.setWidth 16

/-- `zext_8(key)` (R172). -/
def zextKey (key : Nibble) : Byte := key.setWidth 8

/-- The implicit source `V0` of `Bnnn` (R22). -/
def State.v0 (s : State) : Byte := s.reg 0#4

/-- The base address `I` as an exact natural number (R57, R60). -/
def State.base (s : State) : Nat := s.i.toNat

/-- `V[0], V[1], …, V[x]`: the registers `Fx55` stores (R22, R144). -/
def State.regsUpTo (s : State) (x : RegIx) : List Byte := s.v.toList.take (x.toNat + 1)

/-- The hundreds digit of a byte (R143). -/
def hundreds (b : Byte) : Byte := BitVec.ofNat 8 (b.toNat / 100)

/-- The tens digit of a byte (R143). -/
def tens (b : Byte) : Byte := BitVec.ofNat 8 (b.toNat / 10 % 10)

/-- The ones digit of a byte (R143). -/
def ones (b : Byte) : Byte := BitVec.ofNat 8 (b.toNat % 10)

/-- The address of a glyph: `0x050 + 5 * zext_16(V[x])`, the whole byte (R142; decision D7, log 12). -/
def glyphAddr (b : Byte) : Word := BitVec.ofNat 16 (Config.fontBase + Config.glyphStride * b.toNat)

end Sys2Proof.Machine
end

