-- ==== Sys2Proof/Machine/ControlTransfer.lean ====
section
/-! DEFINITION. The control-transfer instructions (spec/40_control_transfer.md). No target is checked here: a target that
cannot be fetched makes the next fetch raise (R100). -/

namespace Sys2Proof.Machine

/-- `0nnn` (R101): always raises `Unsupported`; `n` plays no part. -/
def execSysCall (_n : Imm12) (s : State) : Host.Outcome State Fault Refusal := .next (s.raise .unsupported)

/-- `00EE` (R102): pop the stack into `pc`; `StackUnderflow` on an empty stack. -/
def execReturn (s : State) : Host.Outcome State Fault Refusal := attempt s s.pop

/-- `1nnn` (R103): `pc <- zext_16(n)`. -/
def execJump (n : Imm12) (s : State) : Host.Outcome State Fault Refusal := .next (s.setPc (zextImm n))

/-- `2nnn` (R104): push `pc + 2`, then `pc <- zext_16(n)`; `StackOverflow` with 16 live entries. -/
def execCall (n : Imm12) (s : State) : Host.Outcome State Fault Refusal :=
  attempt s ((s.push (s.pc + 2)).map fun t => t.setPc (zextImm n))

/-- `Bnnn` (R105): `pc <- zext_16(n) + zext_16(V[0])`, always `V0`, never reduced modulo 4096. -/
def execJumpOffset (n : Imm12) (s : State) : Host.Outcome State Fault Refusal :=
  .next (s.setPc (zextImm n + zextReg s.v0))

end Sys2Proof.Machine
end

