-- ==== Sys2Proof/Machine/Collaborators.lean ====
section
/-! DEFINITION. The calls to the collaborators (spec/00_scope.md R14, spec/60_exceptions.md R176 to R178). A call is put at
the end of the list of calls; an answer is the oldest one State lists, or a free value where it lists none
(decision D21; log 5, 6). -/

namespace Sys2Proof.Machine

/-- Records a call (R183). -/
def State.record (s : State) (c : Call) : State := s.setPorts { s.ports with calls := s.ports.calls ++ [c] }

/-- `DisplayClear()` (R176): an event, nothing comes back. -/
def State.displayClear (s : State) : State := s.record .displayClear

/-- The bit the display answers next (R176): unconstrained. -/
def State.collidedAnswer (s : State) : Bool := s.ports.collided.headD (Config.freeCollided s.ports.asked)

/-- `DisplayDraw(x, y, bytes)` (R176): the state after the call; the answer is `collidedAnswer`. -/
def State.displayDraw (s : State) (x y : Byte) (rows : List Byte) : State :=
  s.setPorts
    { s.ports with
      collided := s.ports.collided.tail
      asked := s.ports.asked + 1
      calls := s.ports.calls ++ [.displayDraw x y rows] }

/-- The bit the keypad answers next about this key number (R177): unconstrained for every key, whole 8 bits
(decision D12, log 17). -/
def State.keyDownAnswer (s : State) (key : Byte) : Bool :=
  s.ports.keyDown.headD (Config.freeKeyDown s.ports.asked key)

/-- `KeyDown(k)` (R177): the state after the call; the answer is `keyDownAnswer`. -/
def State.askKeyDown (s : State) (key : Byte) : State :=
  s.setPorts
    { s.ports with
      keyDown := s.ports.keyDown.tail
      asked := s.ports.asked + 1
      calls := s.ports.calls ++ [.keyDown key] }

/-- The byte the random source gives next (R178): unconstrained. -/
def State.randomAnswer (s : State) : Byte := s.ports.randByte.headD (Config.freeRandByte s.ports.asked)

/-- `RandomByte()` (R178): the state after the call; the answer is `randomAnswer`. -/
def State.askRandom (s : State) : State :=
  s.setPorts
    { s.ports with
      randByte := s.ports.randByte.tail
      asked := s.ports.asked + 1
      calls := s.ports.calls ++ [.randomByte] }

end Sys2Proof.Machine
end

