-- ==== Sys2Proof/Machine/Flags.lean ====
section
/-! DEFINITION. The results and the flags of the ALU (spec/42_load_alu.md R120, R121): exact on natural numbers, narrowed
at the end. -/

namespace Sys2Proof.Machine

/-- A flag as the byte 0 or 1 (R21). -/
def flagByte (f : Bool) : Byte := if f then 1#8 else 0#8

/-- `(a + b) mod 256` (R124, R129). -/
def sum8 (a b : Byte) : Byte := BitVec.ofNat 8 (a.toNat + b.toNat)

/-- `(a - b + 256) mod 256` (R130, R132). -/
def diff8 (a b : Byte) : Byte := BitVec.ofNat 8 (a.toNat + 256 - b.toNat)

/-- The carry of `8xy4`: the exact sum exceeds 255 (R121, R129). -/
def carry (a b : Byte) : Bool := decide (255 < a.toNat + b.toNat)

/-- No borrow of `a - b`: the minuend is at least the subtrahend, so equal operands give 1 (R121; decision D11, log 16). -/
def noBorrow (a b : Byte) : Bool := decide (b.toNat ≤ a.toNat)

/-- `a >> 1` (R131). -/
def shr1 (a : Byte) : Byte := BitVec.ofNat 8 (a.toNat / 2)

/-- `(2 * a) mod 256` (R133). -/
def shl1 (a : Byte) : Byte := BitVec.ofNat 8 (2 * a.toNat)

/-- The bit a right shift moves out: `a & 1` (R131). -/
def lowBit (a : Byte) : Bool := decide (a.toNat % 2 = 1)

/-- The bit a left shift moves out: `a >> 7` (R133). -/
def highBit (a : Byte) : Bool := decide (128 ≤ a.toNat)

/-- `V[15] <- flag` (R21). -/
def State.writeFlag (s : State) (f : Bool) : State := s.setReg vf (flagByte f)

/-- Phases 2 and 3 of R120: the result goes to `V[x]`, then the flag to `V[15]`, so with `x = 15` the flag stays
(conflict C2). The caller has read its sources before. -/
def State.writeResult (s : State) (x : RegIx) (r : Byte) (f : Bool) : State := (s.setReg x r).writeFlag f

end Sys2Proof.Machine
end

