-- ==== Sys2Proof/Machine/DisplayInputTimers.lean ====
section
/-! DEFINITION. The display, the key wait and the timers (spec/44_display_input_timers.md). Which of `Fx07`, `Fx15`, `Fx18`
does which transfer is PRESUMED (spec/93 G1, log 28). -/

namespace Sys2Proof.Machine

/-- `00E0` (R150): one `DisplayClear` event. -/
def execClearScreen (s : State) : Host.Outcome State Fault Refusal := .next s.displayClear.advance

/-- `Dxyn` (R151): the `n` bytes at `I` and the whole bytes `V[x]`, `V[y]` go to the display, its answer to `VF`; nothing
is called where the range leaves memory. `VF` is 0 where no pixel collided (decision D10, log 15). -/
def execDraw (x y : RegIx) (n : Nibble) (s : State) : Host.Outcome State Fault Refusal :=
  attempt s ((memReadRange s.mem s.base (s.base + n.toNat)).map fun rows =>
    ((s.displayDraw (s.reg x) (s.reg y) rows).writeFlag s.collidedAnswer).advance)

/-- `Fx07` (R152): `V[x] <- DT`. -/
def execReadDelay (x : RegIx) (s : State) : Host.Outcome State Fault Refusal := .next (s.setReg x s.dt).advance

/-- `Fx15` (R154): `DT <- V[x]`. -/
def execSetDelay (x : RegIx) (s : State) : Host.Outcome State Fault Refusal := .next (s.setDt (s.reg x)).advance

/-- `Fx18` (R155): `ST <- V[x]`. -/
def execSetSound (x : RegIx) (s : State) : Host.Outcome State Fault Refusal := .next (s.setSt (s.reg x)).advance

/-- `Fx0A` (R153): the machine waits for a key; `pc` advances when the key comes (`resume`, R172). -/
def execWaitKey (x : RegIx) (s : State) : Host.Outcome State Fault Refusal := .next (s.setRun (.awaitingKey x))

end Sys2Proof.Machine
end

