-- ==== Sys2Proof/Machine/IndexMemory.lean ====
section
/-! DEFINITION. The index register and the memory instructions (spec/43_index_memory.md). The whole range is checked before
anything is read or written, and `I` is never changed by a memory instruction (R139; decisions D3, D8; log 9, 13). -/

namespace Sys2Proof.Machine

/-- `Annn` (R140): `I <- zext_16(n)`. -/
def execLoadIndex (n : Imm12) (s : State) : Host.Outcome State Fault Refusal := .next (s.setI (zextImm n)).advance

/-- `Fx1E` (R141): `I <- (I + zext_16(V[x])) mod 65536`, no flag (decision D7, log 12). -/
def execAddIndex (x : RegIx) (s : State) : Host.Outcome State Fault Refusal :=
  .next (s.setI (s.i + zextReg (s.reg x))).advance

/-- `Fx29` (R142): `I <- 0x050 + 5 * V[x]`, not masked (decision D7, log 12). -/
def execFontAddr (x : RegIx) (s : State) : Host.Outcome State Fault Refusal :=
  .next (s.setI (glyphAddr (s.reg x))).advance

/-- The three writes of `Fx33` after the check of `I..I+2` (R143). -/
def storeDigits (m : Memory) (base : Nat) (b : Byte) : Except ExecError Memory :=
  if Config.memSize ≤ base + 2 then .error .addressOutOfRange
  else do
    let m1 ← memWrite m base (hundreds b)
    let m2 ← memWrite m1 (base + 1) (tens b)
    memWrite m2 (base + 2) (ones b)

/-- `Fx33` (R143): the hundreds, tens and ones digits of `V[x]` at `I`, `I+1`, `I+2`. -/
def execStoreBcd (x : RegIx) (s : State) : Host.Outcome State Fault Refusal :=
  attempt s ((storeDigits s.mem s.base (s.reg x)).map fun m => (s.setMem m).advance)

/-- `Fx55` (R144): `V[0]..V[x]` to `I..I+x`. -/
def execStoreRegs (x : RegIx) (s : State) : Host.Outcome State Fault Refusal :=
  attempt s ((memCopy s.mem s.base (s.regsUpTo x)).map fun m => (s.setMem m).advance)

/-- `Fx65` (R145): `I..I+x` to `V[0]..V[x]`. -/
def execLoadRegs (x : RegIx) (s : State) : Host.Outcome State Fault Refusal :=
  attempt s ((memReadRange s.mem s.base (s.base + x.toNat + 1)).map fun b => (s.setRegs b).advance)

end Sys2Proof.Machine
end

