-- ==== Sys2Proof/Machine/LoadAlu.lean ====
section
/-! DEFINITION. The register loads and the ALU (spec/42_load_alu.md). Every source is read before any write, the flag is
written after the destination (R120); every instruction ends with the sequential advance (R122). -/

namespace Sys2Proof.Machine

/-- `6xkk` (R123): `V[x] <- k`. -/
def execLoadImmediate (x : RegIx) (k : Byte) (s : State) : Host.Outcome State Fault Refusal :=
  .next (s.setReg x k).advance

/-- `7xkk` (R124): `V[x] <- (V[x] + k) mod 256`, no flag. -/
def execAddImmediate (x : RegIx) (k : Byte) (s : State) : Host.Outcome State Fault Refusal :=
  .next (s.setReg x (sum8 (s.reg x) k)).advance

/-- `8xy0` (R125): `V[x] <- V[y]`. -/
def execMove (x y : RegIx) (s : State) : Host.Outcome State Fault Refusal := .next (s.setReg x (s.reg y)).advance

/-- `8xy1` (R126): `V[x] <- V[x] | V[y]`; `VF` is not a flag here (decision D9, log 14). -/
def execOr (x y : RegIx) (s : State) : Host.Outcome State Fault Refusal :=
  .next (s.setReg x (s.reg x ||| s.reg y)).advance

/-- `8xy2` (R127): `V[x] <- V[x] & V[y]`; `VF` is not a flag here (decision D9, log 14). -/
def execAnd (x y : RegIx) (s : State) : Host.Outcome State Fault Refusal :=
  .next (s.setReg x (s.reg x &&& s.reg y)).advance

/-- `8xy3` (R128): `V[x] <- V[x] ^ V[y]`; `VF` is not a flag here (decision D9, log 14). -/
def execXor (x y : RegIx) (s : State) : Host.Outcome State Fault Refusal :=
  .next (s.setReg x (s.reg x ^^^ s.reg y)).advance

/-- `8xy4` (R129): the sum, then the carry in `VF`. -/
def execAdd (x y : RegIx) (s : State) : Host.Outcome State Fault Refusal :=
  .next (s.writeResult x (sum8 (s.reg x) (s.reg y)) (carry (s.reg x) (s.reg y))).advance

/-- `8xy5` (R130): `V[x] - V[y]`, then "no borrow" in `VF`. -/
def execSub (x y : RegIx) (s : State) : Host.Outcome State Fault Refusal :=
  .next (s.writeResult x (diff8 (s.reg x) (s.reg y)) (noBorrow (s.reg x) (s.reg y))).advance

/-- `8xy6` (R131): `V[x] >> 1`, then the old bit 0 in `VF`; `y` is not used (decision D9, log 14). -/
def execShiftRight (x _y : RegIx) (s : State) : Host.Outcome State Fault Refusal :=
  .next (s.writeResult x (shr1 (s.reg x)) (lowBit (s.reg x))).advance

/-- `8xy7` (R132): `V[y] - V[x]`, then "no borrow" in `VF`, else 0 (decision D10, log 15). -/
def execSubReverse (x y : RegIx) (s : State) : Host.Outcome State Fault Refusal :=
  .next (s.writeResult x (diff8 (s.reg y) (s.reg x)) (noBorrow (s.reg y) (s.reg x))).advance

/-- `8xyE` (R133): `V[x] << 1`, then the old bit 7 in `VF`; `y` is not used (decision D9, log 14). -/
def execShiftLeft (x _y : RegIx) (s : State) : Host.Outcome State Fault Refusal :=
  .next (s.writeResult x (shl1 (s.reg x)) (highBit (s.reg x))).advance

/-- `Cxkk` (R134): one byte drawn, `V[x] <- r & k`. -/
def execRandom (x : RegIx) (k : Byte) (s : State) : Host.Outcome State Fault Refusal :=
  .next (s.askRandom.setReg x (s.randomAnswer &&& k)).advance

end Sys2Proof.Machine
end

