-- ==== Sys2Proof/Machine/Skip.lean ====
section
/-! DEFINITION. The conditional skips (spec/41_skip.md): `pc` advances by 4 if the condition holds, else by 2; the skipped
word is not fetched (R109). -/

namespace Sys2Proof.Machine

/-- `3xkk` (R110): skip if `V[x] == k`. -/
def execSkipEqImm (x : RegIx) (k : Byte) (s : State) : Host.Outcome State Fault Refusal :=
  .next (s.skipIf (s.reg x == k))

/-- `4xkk` (R111): skip if `V[x] != k`. -/
def execSkipNeImm (x : RegIx) (k : Byte) (s : State) : Host.Outcome State Fault Refusal :=
  .next (s.skipIf (s.reg x != k))

/-- `5xy0` (R112): skip if `V[x] == V[y]`. -/
def execSkipEqReg (x y : RegIx) (s : State) : Host.Outcome State Fault Refusal :=
  .next (s.skipIf (s.reg x == s.reg y))

/-- `9xy0` (R113): skip if `V[x] != V[y]`. -/
def execSkipNeReg (x y : RegIx) (s : State) : Host.Outcome State Fault Refusal :=
  .next (s.skipIf (s.reg x != s.reg y))

/-- `Ex9E` (R114): ask the keypad about the whole byte `V[x]`, skip if it answers 1. -/
def execSkipKeyDown (x : RegIx) (s : State) : Host.Outcome State Fault Refusal :=
  .next ((s.askKeyDown (s.reg x)).skipIf (s.keyDownAnswer (s.reg x)))

/-- `ExA1` (R115): ask the keypad about the whole byte `V[x]`, skip if it answers 0. -/
def execSkipKeyUp (x : RegIx) (s : State) : Host.Outcome State Fault Refusal :=
  .next ((s.askKeyDown (s.reg x)).skipIf (!s.keyDownAnswer (s.reg x)))

end Sys2Proof.Machine
end

