-- ==== Sys2Proof/Machine/Dispatch.lean ====
section
/-! DEFINITION. The Execution Engine's dispatch (spec/60_exceptions.md R160): one arm per shape of spec/30_encoding.md R76. -/

namespace Sys2Proof.Machine

/-- Executes one decoded instruction. -/
def exec (i : Instr) (s : State) : Host.Outcome State Fault Refusal :=
  match i with
  | .sysCall n => Sys2Proof.Machine.execSysCall n s
  | .clearScreen => Sys2Proof.Machine.execClearScreen s
  | .ret => Sys2Proof.Machine.execReturn s
  | .jump n => Sys2Proof.Machine.execJump n s
  | .call n => Sys2Proof.Machine.execCall n s
  | .skipEqImm x k => Sys2Proof.Machine.execSkipEqImm x k s
  | .skipNeImm x k => Sys2Proof.Machine.execSkipNeImm x k s
  | .skipEqReg x y => Sys2Proof.Machine.execSkipEqReg x y s
  | .skipNeReg x y => Sys2Proof.Machine.execSkipNeReg x y s
  | .loadImmediate x k => Sys2Proof.Machine.execLoadImmediate x k s
  | .addImmediate x k => Sys2Proof.Machine.execAddImmediate x k s
  | .move x y => Sys2Proof.Machine.execMove x y s
  | .or x y => Sys2Proof.Machine.execOr x y s
  | .and x y => Sys2Proof.Machine.execAnd x y s
  | .xor x y => Sys2Proof.Machine.execXor x y s
  | .add x y => Sys2Proof.Machine.execAdd x y s
  | .sub x y => Sys2Proof.Machine.execSub x y s
  | .shiftRight x y => Sys2Proof.Machine.execShiftRight x y s
  | .subReverse x y => Sys2Proof.Machine.execSubReverse x y s
  | .shiftLeft x y => Sys2Proof.Machine.execShiftLeft x y s
  | .loadIndex n => Sys2Proof.Machine.execLoadIndex n s
  | .jumpOffset n => Sys2Proof.Machine.execJumpOffset n s
  | .random x k => Sys2Proof.Machine.execRandom x k s
  | .draw x y n => Sys2Proof.Machine.execDraw x y n s
  | .skipKeyDown x => Sys2Proof.Machine.execSkipKeyDown x s
  | .skipKeyUp x => Sys2Proof.Machine.execSkipKeyUp x s
  | .readDelay x => Sys2Proof.Machine.execReadDelay x s
  | .setDelay x => Sys2Proof.Machine.execSetDelay x s
  | .setSound x => Sys2Proof.Machine.execSetSound x s
  | .waitKey x => Sys2Proof.Machine.execWaitKey x s
  | .addIndex x => Sys2Proof.Machine.execAddIndex x s
  | .fontAddr x => Sys2Proof.Machine.execFontAddr x s
  | .storeBcd x => Sys2Proof.Machine.execStoreBcd x s
  | .storeRegs x => Sys2Proof.Machine.execStoreRegs x s
  | .loadRegs x => Sys2Proof.Machine.execLoadRegs x s

end Sys2Proof.Machine
end

