-- ==== Sys2Proof/Machine/Cycle.lean ====
section
/-! DEFINITION. The steps of the agents: the core's `Cycle()` (spec/60_exceptions.md R160) and `Resume` (R172), the timer
driver's `TimerTick()` (R175), and the owning driver's construction of an instance with the loader's run
(spec/70_reset_and_hazards.md R190, R192, R201). -/

namespace Sys2Proof.Machine

/-- The fetch: `MemRead(pc, 2)` (R71). Any `pc` up to 4094, odd ones included (decision D5, log 10). -/
def State.fetch (s : State) : Except ExecError Word := memReadWord s.mem s.pc.toNat

/-- Execute (R160): a shape by its rule; `Invalid{code}` raises `InvalidOpcode{code}` (R163). -/
def execDecoded (d : Decoded) (s : State) : Host.Outcome State Fault Refusal :=
  match d with
  | .shape i => exec i s
  | .invalid code => .next (s.raise (.invalidOpcode code))

/-- `Cycle()` (R160, R167, R168). While the machine waits or has halted a requested cycle changes nothing (decision D14,
log 19). -/
def cycle (s : State) : Host.Outcome State Fault Refusal :=
  match s.run with
  | .running =>
    match s.fetch with
    | .ok w => execDecoded (decode w) s
    | .error e => .next (s.raise e)
  | .awaitingKey _ => .next s
  | .halted _ => .next s

/-- `Resume(key)` (R172): stores the key, advances `pc`, runs again. Outside `AwaitingKey` a key event changes nothing and is
not remembered (decision D14, log 19). -/
def State.resume (s : State) (key : Nibble) : State :=
  match s.run with
  | .awaitingKey x => ((s.setReg x (zextKey key)).advance).setRun .running
  | .running => s
  | .halted _ => s

/-- One step of a timer toward zero, never below it (R175). -/
def countDown (b : Byte) : Byte := if 0 < b.toNat then BitVec.ofNat 8 (b.toNat - 1) else b

/-- `TimerTick()` (R175): both timers in one step, in every run state (decision D15, log 20). -/
def State.timerTick (s : State) : State := (s.setDt (countDown s.dt)).setSt (countDown s.st)

/-- The loader (R192): the font at `0x050`, the program image at `0x200`. It fails where the image is longer than 3584
bytes, and then writes nothing (R193). -/
def loader (font : Vector Byte 80) (program : List Byte) (m : Memory) : Except ExecError Memory := do
  let m1 ← memCopy m Config.fontBase font.toList
  memCopy m1 Config.programBase program

/-- The owning driver discards the instance, constructs a new one and runs the loader (R190, R192, R201). The ports are the
surroundings' and stay. An image that does not fit is refused: no machine run exists (R193, spec/93 U18, log 26). -/
def construct (font : Vector Byte 80) (program : List Byte) (s : State) : Host.Outcome State Fault Refusal :=
  match loader font program State.reset.mem with
  | .ok m => .next ((State.reset.setMem m).setPorts s.ports)
  | .error _ => .refused .programImageTooLong

/-- The request to be served next: the oldest listed, or a cycle where none is listed (log 4). -/
def State.nextRequest (s : State) : Request := s.ports.requests.headD .cycle

/-- The state with that request taken off the list. -/
def State.takeRequest (s : State) : State := s.setPorts { s.ports with requests := s.ports.requests.tail }

/-- Serves one request (R9, R201). -/
def serve (r : Request) (s : State) : Host.Outcome State Fault Refusal :=
  match r with
  | .cycle => cycle s
  | .keyEvent key => .next (s.resume key)
  | .timerTick => .next s.timerTick
  | .construct font program => construct font program s

/-! ## The driver's view (R181, R183) -/

/-- Port `status`: the run state, the error's number in the table of R161 (0 where there is none), and the word of an
`InvalidOpcode` (0 where there is none). -/
def State.status (s : State) : RunState × Nat × Word :=
  match s.run with
  | .halted (.invalidOpcode code) => (s.run, ExecError.number (.invalidOpcode code), code)
  | .halted e => (s.run, e.number, 0#16)
  | .running => (s.run, 0, 0#16)
  | .awaitingKey _ => (s.run, 0, 0#16)

/-- All 4096 cells in ascending order: what the memory's `dump()` reads (R67). -/
def State.memoryBytes (s : State) : List Byte := (List.range' 0 Config.memSize).map s.mem.get

/-- Port `diag`: once the machine has halted the driver reads all state of spec/10_state.md: the registers as they stand and
every byte of memory (R181). The text of the dump is not modelled (log 32). -/
def State.diag (s : State) : Option (State × List Byte) :=
  match s.run with
  | .halted _ => some (s, s.memoryBytes)
  | .running => none
  | .awaitingKey _ => none

/-! ## Placing an instruction where the next step fetches it (log 30) -/

/-- Where the next fetch can be made to read: `pc`, or the reset value where nothing can be fetched at `pc`. -/
def State.fetchablePc (s : State) : Word := if s.pc.toNat + 1 < Config.memSize then s.pc else Config.pcReset

/-- The requests with a cycle next. -/
def requestsWithCycleNext (rs : List Request) : List Request :=
  match rs with
  | [] => []
  | .cycle :: rest => .cycle :: rest
  | .keyEvent key :: rest => .cycle :: .keyEvent key :: rest
  | .timerTick :: rest => .cycle :: .timerTick :: rest
  | .construct font program :: rest => .cycle :: .construct font program :: rest

/-- The state in which the next step fetches and executes exactly the word `w`: the word stored big-endian at a `pc` that can
be fetched, the machine running, a cycle asked for next. -/
def State.placeWord (s : State) (w : Word) : State :=
  (((s.setPc s.fetchablePc).setMem (s.mem.putAll s.fetchablePc.toNat (bytesOfWord w))).setRun .running).setPorts
    { s.ports with requests := requestsWithCycleNext s.ports.requests }

end Sys2Proof.Machine
end

