-- ==== Sys2Proof/Machine/Step.lean ====
section
/-! DEFINITION. One step of the machine: the oldest request is served, atomically (spec/00_scope.md R8, R9). -/

namespace Sys2Proof.Machine

/-- Serves the next request. With none listed the owning driver asks for a cycle (log 4). -/
def step (s : State) : Host.Outcome State Fault Refusal := serve s.nextRequest s.takeRequest

/-- The state whose very next step fetches and runs the instruction of an opcode-table word of `nbits` bits (always 16: R70);
bits above `nbits` are zero (log 30). -/
def State.withFetchWord (s : State) (nbits w : Nat) : State := s.placeWord (BitVec.ofNat 16 (w % 2 ^ nbits))

end Sys2Proof.Machine
end

