-- ==== Sys2Proof/Safety.lean ====
section
/-! DEFINITION. The terms the claims are stated in: the parts of the state and what an instruction may change
(spec/10_state.md R22, R39; spec/20_memory.md R60), which error it raises (spec/60_exceptions.md R161), the instruction at
`pc`, and the invariants of spec/10_state.md R37. -/

namespace Sys2Proof.Machine

/-! ## Parts of the state and frames -/

/-- One observable part of the state. Stack slots and memory bytes are named one by one. -/
inductive Part where
  | reg (r : RegIx)
  | pc
  | i
  | sp
  | slot (j : Nat)
  | dt
  | st
  | run
  | byte (a : Nat)
  /-- The requests not yet served. -/
  | requests
  /-- The collaborators' answers not yet used and the counter of answers asked for. -/
  | answers
  /-- The calls made to collaborators. -/
  | calls
  deriving DecidableEq, Repr

/-- The part holds in `t` what it held in `s`. -/
def Part.Same (s t : State) : Part → Prop
  | .reg r => t.reg r = s.reg r
  | .pc => t.pc = s.pc
  | .i => t.i = s.i
  | .sp => t.sp = s.sp
  | .slot j => t.stack[j]? = s.stack[j]?
  | .dt => t.dt = s.dt
  | .st => t.st = s.st
  | .run => t.run = s.run
  | .byte a => t.byte a = s.byte a
  | .requests => t.ports.requests = s.ports.requests
  | .answers =>
    t.ports.collided = s.ports.collided ∧ t.ports.keyDown = s.ports.keyDown ∧
      t.ports.randByte = s.ports.randByte ∧ t.ports.asked = s.ports.asked
  | .calls => t.ports.calls = s.ports.calls

/-- The frame: from `s` to `t` nothing changes but the listed parts. -/
def OnlyChanges (parts : List Part) (s t : State) : Prop := ∀ p : Part, p ∉ parts → p.Same s t

/-- The bytes `I`, `I+1`, …, `I+count-1` (R60). -/
def State.bytesFromI (s : State) (count : Nat) : List Part := (List.range count).map fun j => .byte (s.base + j)

/-- The registers `V0`, …, up to `count` of them (R22). -/
def regsFromV0 (count : Nat) : List Part := (List.range count).map fun j => .reg (BitVec.ofNat 4 j)

/-- `pc` is advanced by `d`, modulo 65536 (R24). -/
def AdvancesBy (d : Nat) (s t : State) : Prop := t.pc.toNat = (s.pc.toNat + d) % 65536

/-! ## Errors and written parts, instruction by instruction -/

/-- The error an instruction raises in a state, from the table of R161; no other instruction can raise anything. -/
def raisedBy (i : Instr) (s : State) : Option ExecError :=
  match i with
  | .sysCall _ => some .unsupported
  | .call _ => if s.sp.val = 16 then some .stackOverflow else none
  | .ret => if s.sp.val = 0 then some .stackUnderflow else none
  | .draw _ _ n => if 0 < n.toNat ∧ 4096 < s.i.toNat + n.toNat then some .addressOutOfRange else none
  | .storeBcd _ => if 4095 < s.i.toNat + 2 then some .addressOutOfRange else none
  | .storeRegs x => if 4095 < s.i.toNat + x.toNat then some .addressOutOfRange else none
  | .loadRegs x => if 4095 < s.i.toNat + x.toNat then some .addressOutOfRange else none
  | .clearScreen | .jump _ | .skipEqImm _ _ | .skipNeImm _ _ | .skipEqReg _ _ | .skipNeReg _ _ | .loadImmediate _ _
  | .addImmediate _ _ | .move _ _ | .or _ _ | .and _ _ | .xor _ _ | .add _ _ | .sub _ _ | .shiftRight _ _
  | .subReverse _ _ | .shiftLeft _ _ | .loadIndex _ | .jumpOffset _ | .random _ _ | .skipKeyDown _ | .skipKeyUp _
  | .readDelay _ | .setDelay _ | .setSound _ | .waitKey _ | .addIndex _ | .fontAddr _ => none

/-- The parts an instruction may change when it raises nothing (R22, R39, R60, R100, R109, R122, R139, R149). -/
def writesIfDone (i : Instr) (s : State) : List Part :=
  match i with
  | .sysCall _ => [.run]
  | .clearScreen => [.pc, .calls]
  | .ret => [.pc, .sp]
  | .jump _ | .jumpOffset _ => [.pc]
  | .call _ => [.pc, .sp, .slot s.sp.val]
  | .skipEqImm _ _ | .skipNeImm _ _ | .skipEqReg _ _ | .skipNeReg _ _ => [.pc]
  | .skipKeyDown _ | .skipKeyUp _ => [.pc, .answers, .calls]
  | .loadImmediate x _ | .addImmediate x _ | .move x _ | .or x _ | .and x _ | .xor x _ => [.pc, .reg x]
  | .add x _ | .sub x _ | .shiftRight x _ | .subReverse x _ | .shiftLeft x _ => [.pc, .reg x, .reg 0xF]
  | .random x _ => [.pc, .reg x, .answers, .calls]
  | .loadIndex _ | .addIndex _ | .fontAddr _ => [.pc, .i]
  | .storeBcd _ => .pc :: s.bytesFromI 3
  | .storeRegs x => .pc :: s.bytesFromI (x.toNat + 1)
  | .loadRegs x => .pc :: regsFromV0 (x.toNat + 1)
  | .draw _ _ _ => [.pc, .reg 0xF, .answers, .calls]
  | .readDelay x => [.pc, .reg x]
  | .setDelay _ => [.pc, .dt]
  | .setSound _ => [.pc, .st]
  | .waitKey _ => [.run]

/-- The parts an instruction may change in a state: one that raises changes the run state alone (R168, R169). -/
def mayWrite (i : Instr) (s : State) : List Part :=
  match raisedBy i s with
  | some _ => [.run]
  | none => writesIfDone i s

/-- The six instructions that write `VF` as a flag (R21). -/
def writesFlag : Instr → Bool
  | .add _ _ | .sub _ _ | .shiftRight _ _ | .subReverse _ _ | .shiftLeft _ _ | .draw _ _ _ => true
  | .sysCall _ | .clearScreen | .ret | .jump _ | .call _ | .skipEqImm _ _ | .skipNeImm _ _ | .skipEqReg _ _
  | .skipNeReg _ _ | .loadImmediate _ _ | .addImmediate _ _ | .move _ _ | .or _ _ | .and _ _ | .xor _ _ | .loadIndex _
  | .jumpOffset _ | .random _ _ | .skipKeyDown _ | .skipKeyUp _ | .readDelay _ | .setDelay _ | .setSound _ | .waitKey _
  | .addIndex _ | .fontAddr _ | .storeBcd _ | .storeRegs _ | .loadRegs _ => false

/-- The instruction names register `r` as an ordinary destination (R20, R21, R145). -/
def namesReg (i : Instr) (r : RegIx) : Bool :=
  match i with
  | .loadImmediate x _ | .addImmediate x _ | .move x _ | .or x _ | .and x _ | .xor x _ | .add x _ | .sub x _
  | .shiftRight x _ | .subReverse x _ | .shiftLeft x _ | .random x _ | .readDelay x => x == r
  | .loadRegs x => decide (r.toNat ≤ x.toNat)
  | .sysCall _ | .clearScreen | .ret | .jump _ | .call _ | .skipEqImm _ _ | .skipNeImm _ _ | .skipEqReg _ _
  | .skipNeReg _ _ | .loadIndex _ | .jumpOffset _ | .draw _ _ _ | .skipKeyDown _ | .skipKeyUp _ | .setDelay _
  | .setSound _ | .waitKey _ | .addIndex _ | .fontAddr _ | .storeBcd _ | .storeRegs _ => false

/-- How far an instruction that raises nothing may move `pc` without setting it (R24); none for the control transfers. -/
def pcAdvance : Instr → Option (List Nat)
  | .sysCall _ | .ret | .jump _ | .call _ | .jumpOffset _ => none
  | .skipEqImm _ _ | .skipNeImm _ _ | .skipEqReg _ _ | .skipNeReg _ _ | .skipKeyDown _ | .skipKeyUp _ => some [2, 4]
  | .waitKey _ => some [0]
  | .clearScreen | .loadImmediate _ _ | .addImmediate _ _ | .move _ _ | .or _ _ | .and _ _ | .xor _ _ | .add _ _
  | .sub _ _ | .shiftRight _ _ | .subReverse _ _ | .shiftLeft _ _ | .loadIndex _ | .random _ _ | .draw _ _ _
  | .readDelay _ | .setDelay _ | .setSound _ | .addIndex _ | .fontAddr _ | .storeBcd _ | .storeRegs _ | .loadRegs _ =>
    some [2]

/-! ## The instruction at `pc` and the invariants -/

/-- The word made of the two bytes at `pc`, the lower address the more significant (R71). -/
def State.wordAtPc (s : State) : Word := s.byte s.pc.toNat ++ s.byte (s.pc.toNat + 1)

/-- The two bytes at `pc` are inside memory and decode to the instruction `i`. -/
def State.At (s : State) (i : Instr) : Prop := s.pc.toNat + 1 < 4096 ∧ decode s.wordAtPc = .shape i

/-- The invariants of R37, and the canonical form of memory (log 2). The ranges of `V`, `DT`, `ST`, `I` and `sp` are the
ranges of their types. -/
structure State.Inv (s : State) : Prop where
  /-- `pc` is in 0..0x10FE (R25, R37). -/
  pc_le : s.pc.toNat ≤ 0x10FE
  /-- Every live stack entry is in 0x0002..0x1000 (R37). -/
  live : ∀ (j : Nat) (a : Word), j < s.sp.val → s.stack[j]? = some a → 0x0002 ≤ a.toNat ∧ a.toNat ≤ 0x1000
  /-- While the machine waits, the instruction at `pc` is the `Fx0A` that waits (R33, R37). -/
  awaiting : ∀ x : RegIx, s.run = .awaitingKey x → s.At (.waitKey x)
  /-- Memory is in its canonical form. -/
  mem_wf : s.mem.wf

end Sys2Proof.Machine
end

