-- ==== Sys2Proof/Certificates/Slice0/Obligations.lean ====
section
/-! DEFINITION. The statements for the provers, from the numbered rules of spec/. Each docstring says which rule it
formalises and, where it rests on a choice the spec marks as its own or on a choice of the model, which one. -/

open Sys2Proof Sys2Proof.Machine

/-! ## Encoding and decoding (spec/30_encoding.md) -/

/-- The decode examples the source gives (spec/95_test_vectors.md X1) and one word of each other format, written out from the
patterns of R73: a sanity statement. -/
def Obligations.SourceDecodeExamples : Prop :=
  decode 0x00E0#16 = .shape .clearScreen ∧ decode 0x1228#16 = .shape (.jump 0x228#12) ∧
    decode 0x6A02#16 = .shape (.loadImmediate 0xA#4 0x02#8) ∧ decode 0xFFFF#16 = .invalid 0xFFFF#16 ∧
    decode 0x8014#16 = .shape (.add 0x0#4 0x1#4) ∧ decode 0xD125#16 = .shape (.draw 0x1#4 0x2#4 0x5#4) ∧
    decode 0xE19E#16 = .shape (.skipKeyDown 0x1#4) ∧ decode 0xF133#16 = .shape (.storeBcd 0x1#4) ∧
    decode 0x0000#16 = .shape (.sysCall 0x000#12)

/-- R75 with R76 and R81: no bit of an encoding is dropped. -/
def Obligations.DecodeOfEncodeIsTheInstruction : Prop :=
  ∀ i : Instr, i.wellFormed = true → decode (encode i) = .shape i

/-- R75, R76: every word has one meaning, so a word that decodes to an instruction is that instruction's word, and no
`SysCall` stands on the words of `ClearScreen` and `Return`. -/
def Obligations.EncodeOfDecodeIsTheWord : Prop :=
  ∀ (w : Word) (i : Instr), decode w = .shape i → i.wellFormed = true ∧ encode i = w

/-- The table of R77, which the spec marks as derived from R75: a word is invalid exactly if it is in one of the five
groups, and `Invalid` carries the word. -/
def Obligations.InvalidWordsAreThoseOfTheTable : Prop :=
  ∀ w : Word,
    (∀ code : Word, decode w = .invalid code → code = w) ∧
      let op := w.toNat / 4096
      let n := w.toNat % 16
      let kk := w.toNat % 256
      ((∃ code : Word, decode w = .invalid code) ↔
        (op = 0x5 ∧ n ≠ 0) ∨
        (op = 0x8 ∧ n ∈ [0x8, 0x9, 0xA, 0xB, 0xC, 0xD, 0xF]) ∨
        (op = 0x9 ∧ n ≠ 0) ∨
        (op = 0xE ∧ kk ∉ [0x9E, 0xA1]) ∨
        (op = 0xF ∧ kk ∉ [0x07, 0x0A, 0x15, 0x18, 0x1E, 0x29, 0x33, 0x55, 0x65]))

/-! ## Memory (spec/20_memory.md) -/

/-- R53: the two-byte read is big-endian and raises exactly where it would leave memory. -/
def Obligations.WordReadIsBigEndian : Prop :=
  ∀ (m : Memory) (addr : Nat),
    (4095 ≤ addr → memReadWord m addr = .error .addressOutOfRange) ∧
      (addr < 4095 → ∃ w : Word, memReadWord m addr = .ok w ∧
        w.toNat = (m.get addr).toNat * 256 + (m.get (addr + 1)).toNat)

/-- R52, R55: reads and writes of one byte, the round trip, and no other cell changes. -/
def Obligations.ByteWriteThenRead : Prop :=
  ∀ (m : Memory) (addr : Nat) (b : Byte),
    (4096 ≤ addr → memRead m addr = .error .addressOutOfRange ∧ memWrite m addr b = .error .addressOutOfRange) ∧
      (addr < 4096 → memRead m addr = .ok (m.get addr) ∧
        ∃ m', memWrite m addr b = .ok m' ∧ memRead m' addr = .ok b ∧ ∀ a, a ≠ addr → m'.get a = m.get a)

/-- R54, R56: the block write and the range read. An empty block never raises and a block that raises changes nothing: the
spec's decisions D6 and D3 (log 11, 9). -/
def Obligations.BlockWriteThenRangeRead : Prop :=
  ∀ (m : Memory) (addr : Nat) (bytes : List Byte),
    (0 < bytes.length ∧ 4096 < addr + bytes.length →
      memCopy m addr bytes = .error .addressOutOfRange ∧
        memReadRange m addr (addr + bytes.length) = .error .addressOutOfRange) ∧
      (bytes.length = 0 ∨ addr + bytes.length ≤ 4096 →
        ∃ m', memCopy m addr bytes = .ok m' ∧ memReadRange m' addr (addr + bytes.length) = .ok bytes ∧
          ∀ a, a < addr ∨ addr + bytes.length ≤ a → m'.get a = m.get a)

/-- The model's canonical form (log 2): two memories in it that read the same everywhere are the same data. -/
def Obligations.CanonicalMemoriesThatReadAlikeAreEqual : Prop :=
  ∀ m m' : Memory, m.wf → m'.wf → (∀ a, m.get a = m'.get a) → m = m'

/-- R64, which the spec marks as derived and as its decision D20 (log 23): what `Fx55` stores over the following instruction
is what the next fetch reads. That `pc` may be odd is the spec's decision D5 (log 10). -/
def Obligations.StoreIsSeenByTheNextFetch : Prop :=
  ∀ (x : RegIx) (s : State), 1 ≤ x.toNat → s.i.toNat + x.toNat ≤ 4095 → s.i.toNat = s.pc.toNat + 2 →
    ∃ t, exec (.storeRegs x) s = .next t ∧ t.fetch = .ok (s.reg 0 ++ s.reg 1)

/-! ## Control transfer (spec/40_control_transfer.md) -/

/-- R101: `0nnn` always raises `Unsupported`, and raising changes the run state alone (R168, R169: the spec's decision D3,
log 9). -/
def Obligations.SysCallRaisesUnsupported : Prop :=
  ∀ (n : Imm12) (s : State), (n ≠ 0x0E0#12 → n ≠ 0x0EE#12 → decode (0x0#4 ++ n) = .shape (.sysCall n)) ∧
    ∃ t, exec (.sysCall n) s = .next t ∧ OnlyChanges [.run] s t ∧ t.run = .halted .unsupported

/-- R102: `00EE` pops the live top into `pc` as it is. That `sp` is the count of live entries and the top is slot `sp - 1` is
the spec's decision D1 (log 8). -/
def Obligations.ReturnPopsIntoPc : Prop :=
  ∀ s : State, 0 < s.sp.val →
    ∃ t, exec .ret s = .next t ∧ OnlyChanges [.pc, .sp] s t ∧ t.sp.val = s.sp.val - 1 ∧
      s.stack[s.sp.val - 1]? = some t.pc

/-- R103, R105: the two jumps set `pc` to exactly the immediate, or the immediate plus `V0`, never reduced. -/
def Obligations.JumpsSetPc : Prop :=
  ∀ (n : Imm12) (s : State),
    (decode (0x1#4 ++ n) = .shape (.jump n) ∧
      ∃ t, exec (.jump n) s = .next t ∧ OnlyChanges [.pc] s t ∧ t.pc.toNat = n.toNat) ∧
    (decode (0xB#4 ++ n) = .shape (.jumpOffset n) ∧
      ∃ t, exec (.jumpOffset n) s = .next t ∧ OnlyChanges [.pc] s t ∧ t.pc.toNat = n.toNat + (s.reg 0).toNat)

/-- R104: `2nnn` pushes `pc + 2` and jumps. That 16 calls fit and that the slot written is `stack[sp]` is the spec's decision
D1 (log 8). -/
def Obligations.CallPushesTheNextAddress : Prop :=
  ∀ (n : Imm12) (s : State), s.sp.val < 16 →
    ∃ t, exec (.call n) s = .next t ∧ OnlyChanges [.pc, .sp, .slot s.sp.val] s t ∧ t.sp.val = s.sp.val + 1 ∧
      t.stack[s.sp.val]? = some (s.pc + 2) ∧ t.pc.toNat = n.toNat

/-- R30, R102 (source: spec/95_test_vectors.md X4): a `Return` right after a `Call` comes back to the instruction after the
call and restores the depth. The capacity is the spec's decision D1 (log 8). -/
def Obligations.CallThenReturnComesBack : Prop :=
  ∀ (n : Imm12) (s : State), s.sp.val < 16 →
    ∃ t u, exec (.call n) s = .next t ∧ exec .ret t = .next u ∧ OnlyChanges [.pc, .slot s.sp.val] s u ∧
      AdvancesBy 2 s u

/-! ## Skips (spec/41_skip.md) -/

/-- R110, R111. -/
def Obligations.ImmediateSkips : Prop :=
  ∀ (x : RegIx) (k : Byte) (s : State),
    (decode (0x3#4 ++ x ++ k) = .shape (.skipEqImm x k) ∧
      ∃ t, exec (.skipEqImm x k) s = .next t ∧ OnlyChanges [.pc] s t ∧
        AdvancesBy (if (s.reg x).toNat = k.toNat then 4 else 2) s t) ∧
    (decode (0x4#4 ++ x ++ k) = .shape (.skipNeImm x k) ∧
      ∃ t, exec (.skipNeImm x k) s = .next t ∧ OnlyChanges [.pc] s t ∧
        AdvancesBy (if (s.reg x).toNat = k.toNat then 2 else 4) s t)

/-- R112, R113. -/
def Obligations.RegisterSkips : Prop :=
  ∀ (x y : RegIx) (s : State),
    (decode (0x5#4 ++ x ++ y ++ 0x0#4) = .shape (.skipEqReg x y) ∧
      ∃ t, exec (.skipEqReg x y) s = .next t ∧ OnlyChanges [.pc] s t ∧
        AdvancesBy (if (s.reg x).toNat = (s.reg y).toNat then 4 else 2) s t) ∧
    (decode (0x9#4 ++ x ++ y ++ 0x0#4) = .shape (.skipNeReg x y) ∧
      ∃ t, exec (.skipNeReg x y) s = .next t ∧ OnlyChanges [.pc] s t ∧
        AdvancesBy (if (s.reg x).toNat = (s.reg y).toNat then 2 else 4) s t)

/-- R114, R115: one question about the whole byte `V[x]` goes to the keypad, and its answer, whatever it is, decides.
The answer is a free value (the spec's decisions D12, D21; log 5, 17): nothing here rests on it. The list of calls is the
model's (log 6). -/
def Obligations.KeySkips : Prop :=
  ∀ (x : RegIx) (s : State),
    (∃ t, exec (.skipKeyDown x) s = .next t ∧ OnlyChanges [.pc, .answers, .calls] s t ∧
        AdvancesBy (if s.keyDownAnswer (s.reg x) = true then 4 else 2) s t ∧
        t.ports.calls = s.ports.calls ++ [.keyDown (s.reg x)]) ∧
    (∃ t, exec (.skipKeyUp x) s = .next t ∧ OnlyChanges [.pc, .answers, .calls] s t ∧
        AdvancesBy (if s.keyDownAnswer (s.reg x) = true then 2 else 4) s t ∧
        t.ports.calls = s.ports.calls ++ [.keyDown (s.reg x)])

/-! ## Loads and ALU (spec/42_load_alu.md) -/

/-- R123, R124, R125: load, add without a flag, move, for every register, `VF` included. -/
def Obligations.LoadAddMoveResults : Prop :=
  ∀ (x y : RegIx) (k : Byte) (s : State),
    (decode (0x6#4 ++ x ++ k) = .shape (.loadImmediate x k) ∧
      ∃ t, exec (.loadImmediate x k) s = .next t ∧ OnlyChanges [.pc, .reg x] s t ∧ AdvancesBy 2 s t ∧ t.reg x = k) ∧
    (decode (0x7#4 ++ x ++ k) = .shape (.addImmediate x k) ∧
      ∃ t, exec (.addImmediate x k) s = .next t ∧ OnlyChanges [.pc, .reg x] s t ∧ AdvancesBy 2 s t ∧
        (t.reg x).toNat = ((s.reg x).toNat + k.toNat) % 256) ∧
    (decode (0x8#4 ++ x ++ y ++ 0x0#4) = .shape (.move x y) ∧
      ∃ t, exec (.move x y) s = .next t ∧ OnlyChanges [.pc, .reg x] s t ∧ AdvancesBy 2 s t ∧ t.reg x = s.reg y)

/-- R126, R127, R128, bit by bit. That `VF` is left as it was is the spec's decision D9 (log 14). -/
def Obligations.LogicResults : Prop :=
  ∀ (x y : RegIx) (s : State),
    (∃ t, exec (.or x y) s = .next t ∧ OnlyChanges [.pc, .reg x] s t ∧ AdvancesBy 2 s t ∧
      ∀ j, (t.reg x).getLsbD j = ((s.reg x).getLsbD j || (s.reg y).getLsbD j)) ∧
    (∃ t, exec (.and x y) s = .next t ∧ OnlyChanges [.pc, .reg x] s t ∧ AdvancesBy 2 s t ∧
      ∀ j, (t.reg x).getLsbD j = ((s.reg x).getLsbD j && (s.reg y).getLsbD j)) ∧
    (∃ t, exec (.xor x y) s = .next t ∧ OnlyChanges [.pc, .reg x] s t ∧ AdvancesBy 2 s t ∧
      ∀ j, (t.reg x).getLsbD j = ((s.reg x).getLsbD j ^^ (s.reg y).getLsbD j))

/-- R129: the sum modulo 256 and then the carry, so that with `x = 15` the carry stays. -/
def Obligations.AddResult : Prop :=
  ∀ (x y : RegIx) (s : State),
    decode (0x8#4 ++ x ++ y ++ 0x4#4) = .shape (.add x y) ∧
      ∃ t, exec (.add x y) s = .next t ∧ OnlyChanges [.pc, .reg x, .reg 15] s t ∧ AdvancesBy 2 s t ∧
        (t.reg 15).toNat = (if 255 < (s.reg x).toNat + (s.reg y).toNat then 1 else 0) ∧
        (x ≠ 15 → (t.reg x).toNat = ((s.reg x).toNat + (s.reg y).toNat) % 256)

/-- R130, R132: the difference modulo 256 and then "no borrow". The value of the flag for equal operands is the spec's
decision D11, its 0 case for `8xy7` the spec's decision D10 (log 16, 15). -/
def Obligations.SubtractResults : Prop :=
  ∀ (x y : RegIx) (s : State),
    (∃ t, exec (.sub x y) s = .next t ∧ OnlyChanges [.pc, .reg x, .reg 15] s t ∧ AdvancesBy 2 s t ∧
      (t.reg 15).toNat = (if (s.reg y).toNat ≤ (s.reg x).toNat then 1 else 0) ∧
      (x ≠ 15 → ((t.reg x).toNat : Int) = ((s.reg x).toNat - (s.reg y).toNat : Int) % 256)) ∧
    (∃ t, exec (.subReverse x y) s = .next t ∧ OnlyChanges [.pc, .reg x, .reg 15] s t ∧ AdvancesBy 2 s t ∧
      (t.reg 15).toNat = (if (s.reg x).toNat ≤ (s.reg y).toNat then 1 else 0) ∧
      (x ≠ 15 → ((t.reg x).toNat : Int) = ((s.reg y).toNat - (s.reg x).toNat : Int) % 256))

/-- R131, R133: the shifts by one position and the bit moved out, written last (conflict C2). That the operand is `V[x]` and
`y` plays no part is the spec's decision D9 (log 14). -/
def Obligations.ShiftResults : Prop :=
  ∀ (x y : RegIx) (s : State),
    (∃ t, exec (.shiftRight x y) s = .next t ∧ OnlyChanges [.pc, .reg x, .reg 15] s t ∧ AdvancesBy 2 s t ∧
      (t.reg 15).toNat = (s.reg x).toNat % 2 ∧ (x ≠ 15 → (t.reg x).toNat = (s.reg x).toNat / 2)) ∧
    (∃ t, exec (.shiftLeft x y) s = .next t ∧ OnlyChanges [.pc, .reg x, .reg 15] s t ∧ AdvancesBy 2 s t ∧
      (t.reg 15).toNat = (s.reg x).toNat / 128 ∧ (x ≠ 15 → (t.reg x).toNat = 2 * (s.reg x).toNat % 256))

/-- R134: one byte is drawn and masked with `k`; the result has no bit outside `k`. The byte is a free value (the spec's
decision D21; log 5): nothing here rests on it. The list of calls is the model's (log 6). -/
def Obligations.RandomResult : Prop :=
  ∀ (x : RegIx) (k : Byte) (s : State),
    ∃ t, exec (.random x k) s = .next t ∧ OnlyChanges [.pc, .reg x, .answers, .calls] s t ∧ AdvancesBy 2 s t ∧
      t.reg x = s.randomAnswer &&& k ∧ t.reg x &&& ~~~k = 0 ∧ t.ports.calls = s.ports.calls ++ [.randomByte]

/-! ## Index register and memory (spec/43_index_memory.md) -/

/-- R140. -/
def Obligations.LoadIndexResult : Prop :=
  ∀ (n : Imm12) (s : State),
    decode (0xA#4 ++ n) = .shape (.loadIndex n) ∧
      ∃ t, exec (.loadIndex n) s = .next t ∧ OnlyChanges [.pc, .i] s t ∧ AdvancesBy 2 s t ∧ t.i.toNat = n.toNat

/-- R141, R142. That `Fx1E` wraps at 65536 and writes no flag, and that `Fx29` uses the whole byte, is the spec's decision
D7 (log 12). -/
def Obligations.IndexArithmetic : Prop :=
  ∀ (x : RegIx) (s : State),
    (∃ t, exec (.addIndex x) s = .next t ∧ OnlyChanges [.pc, .i] s t ∧ AdvancesBy 2 s t ∧
      t.i.toNat = (s.i.toNat + (s.reg x).toNat) % 65536) ∧
    (∃ t, exec (.fontAddr x) s = .next t ∧ OnlyChanges [.pc, .i] s t ∧ AdvancesBy 2 s t ∧
      t.i.toNat = 0x050 + 5 * (s.reg x).toNat)

/-- R143, with the range inside memory: the three decimal digits of `V[x]`, every other byte as before. That `I` stays is
part of the spec's decision D8 (log 13). -/
def Obligations.StoreBcdStoresDigits : Prop :=
  ∀ (x : RegIx) (s : State), s.i.toNat + 2 ≤ 4095 →
    ∃ t, exec (.storeBcd x) s = .next t ∧
      OnlyChanges [.pc, .byte s.base, .byte (s.base + 1), .byte (s.base + 2)] s t ∧ AdvancesBy 2 s t ∧
      (t.byte s.base).toNat ≤ 2 ∧ (t.byte (s.base + 1)).toNat ≤ 9 ∧ (t.byte (s.base + 2)).toNat ≤ 9 ∧
      (s.reg x).toNat =
        100 * (t.byte s.base).toNat + 10 * (t.byte (s.base + 1)).toNat + (t.byte (s.base + 2)).toNat

/-- R144, with the range inside memory: `V0..Vx` at `I..I+x`, every other byte as before. That `I` stays is the spec's
decision D8 (log 13). -/
def Obligations.StoreRegsStoresTheRange : Prop :=
  ∀ (x : RegIx) (s : State), s.i.toNat + x.toNat ≤ 4095 →
    ∃ t, exec (.storeRegs x) s = .next t ∧ OnlyChanges (.pc :: s.bytesFromI (x.toNat + 1)) s t ∧ AdvancesBy 2 s t ∧
      ∀ r : RegIx, r.toNat ≤ x.toNat → t.byte (s.base + r.toNat) = s.reg r

/-- R145, with the range inside memory: `V0..Vx` from `I..I+x`, the other registers and all memory as before. That `I`
stays is the spec's decision D8 (log 13). -/
def Obligations.LoadRegsLoadsTheRange : Prop :=
  ∀ (x : RegIx) (s : State), s.i.toNat + x.toNat ≤ 4095 →
    ∃ t, exec (.loadRegs x) s = .next t ∧ OnlyChanges (.pc :: regsFromV0 (x.toNat + 1)) s t ∧ AdvancesBy 2 s t ∧
      ∀ r : RegIx, r.toNat ≤ x.toNat → t.reg r = s.byte (s.base + r.toNat)

/-! ## Display, key wait, timers (spec/44_display_input_timers.md) -/

/-- R150: one `DisplayClear` event (kept in the model's list of calls, log 6) and the advance. -/
def Obligations.ClearScreenResult : Prop :=
  decode 0x00E0#16 = .shape .clearScreen ∧
    ∀ s : State, ∃ t, exec .clearScreen s = .next t ∧ OnlyChanges [.pc, .calls] s t ∧ AdvancesBy 2 s t ∧
      t.ports.calls = s.ports.calls ++ [.displayClear]

/-- R151, with the sprite inside memory or empty: the display gets the old `V[x]`, `V[y]` and the `n` bytes at `I`, and its
answer, whatever it is, goes to `VF`. The empty sprite is the spec's decision D6, the 0 of `VF` its decision D10, the free
answer its decision D21 (log 11, 15, 5). The list of calls is the model's (log 6). -/
def Obligations.DrawResult : Prop :=
  ∀ (x y : RegIx) (n : Nibble) (s : State), n.toNat = 0 ∨ s.i.toNat + n.toNat ≤ 4096 →
    ∃ t, exec (.draw x y n) s = .next t ∧ OnlyChanges [.pc, .reg 15, .answers, .calls] s t ∧ AdvancesBy 2 s t ∧
      (t.reg 15).toNat = (if s.collidedAnswer = true then 1 else 0) ∧
      ∃ rows : List Byte, rows.length = n.toNat ∧ (∀ j, j < n.toNat → rows[j]? = some (s.byte (s.base + j))) ∧
        t.ports.calls = s.ports.calls ++ [.displayDraw (s.reg x) (s.reg y) rows]

/-- R152, R154, R155. Which opcode does which transfer is general knowledge, not the source's (spec/93 G1; PRESUMED,
log 28). -/
def Obligations.TimerTransfers : Prop :=
  ∀ (x : RegIx) (s : State),
    (∃ t, exec (.readDelay x) s = .next t ∧ OnlyChanges [.pc, .reg x] s t ∧ AdvancesBy 2 s t ∧ t.reg x = s.dt) ∧
    (∃ t, exec (.setDelay x) s = .next t ∧ OnlyChanges [.pc, .dt] s t ∧ AdvancesBy 2 s t ∧ t.dt = s.reg x) ∧
    (∃ t, exec (.setSound x) s = .next t ∧ OnlyChanges [.pc, .st] s t ∧ AdvancesBy 2 s t ∧ t.st = s.reg x)

/-- R153, the `Cycle()` step of `Fx0A`: only the run state changes; `pc` stays. That the index is kept in the run state is
the spec's decision D14 (log 19). -/
def Obligations.WaitKeyWaits : Prop :=
  ∀ (x : RegIx) (s : State),
    ∃ t, exec (.waitKey x) s = .next t ∧ OnlyChanges [.run] s t ∧ t.run = .awaitingKey x

/-- R153, R172 in two steps: a cycle executes the `Fx0A` at `pc`, the key event that follows stores the key, advances `pc` and
lets the machine run. The 4-bit key and the latched index are the spec's decisions D13 and D14 (log 18, 19); the list of
requests is the model's (log 4). -/
def Obligations.KeyEventEndsTheWait : Prop :=
  ∀ (x : RegIx) (key : Nibble) (rest : List Request) (s : State),
    s.run = .running → s.At (.waitKey x) → s.ports.requests = .cycle :: .keyEvent key :: rest →
      ∃ t u, step s = .next t ∧ t.run = .awaitingKey x ∧ OnlyChanges [.run, .requests] s t ∧
        step t = .next u ∧ u.run = .running ∧ OnlyChanges [.pc, .reg x, .requests] s u ∧ AdvancesBy 2 s u ∧
        (u.reg x).toNat = key.toNat ∧ u.ports.requests = rest

/-- R172 in every state that waits, however it came to wait and whatever happened since: the key event stores the key in the
register the run state names, advances `pc` and lets the machine run. The 4-bit key and the latched index are the spec's
decisions D13 and D14 (log 18, 19); the list of requests is the model's (log 4). -/
def Obligations.KeyEventResumesEveryWait : Prop :=
  ∀ (x : RegIx) (key : Nibble) (rest : List Request) (s : State),
    s.run = .awaitingKey x → s.ports.requests = .keyEvent key :: rest →
      ∃ t, step s = .next t ∧ t.run = .running ∧ OnlyChanges [.pc, .reg x, .run, .requests] s t ∧ AdvancesBy 2 s t ∧
        (t.reg x).toNat = key.toNat ∧ t.ports.requests = rest

/-! ## The cycle, errors and halting (spec/60_exceptions.md) -/

/-- R160: when the machine runs, a cycle is asked for next and the two bytes at `pc` decode to `i`, the step is `exec i` on
the state with that request taken off the list (log 4); where no request is listed, on the state itself. That an odd `pc`
fetches like any other is the spec's decision D5 (log 10). -/
def Obligations.StepRunsTheDecodedInstruction : Prop :=
  ∀ (i : Instr) (s : State), s.run = .running → s.nextRequest = .cycle → s.At i →
    step s = exec i s.takeRequest ∧ (s.ports.requests = [] → step s = exec i s)

/-- R162, R163, R167: a fetch that leaves memory and a word that is no shape halt the machine with their errors, and nothing
else changes (the spec's conflict C5 and decisions D3 and D5; log 33, 9, 10). The list of requests is the model's (log 4). -/
def Obligations.FetchAndDecodeErrorsHalt : Prop :=
  ∀ s : State, s.run = .running → s.nextRequest = .cycle →
    (4094 < s.pc.toNat → ∃ t, step s = .next t ∧ OnlyChanges [.run, .requests] s t ∧
      t.run = .halted .addressOutOfRange) ∧
    (∀ code : Word, s.pc.toNat ≤ 4094 → decode s.wordAtPc = .invalid code →
      ∃ t, step s = .next t ∧ OnlyChanges [.run, .requests] s t ∧ t.run = .halted (.invalidOpcode code))

/-- The table of R161 with R168 and R169: an instruction raises exactly the error the table gives it; then the run state alone
changes; in every other case it completes and halts nothing. The capacity of the call stack and its two errors are the
spec's decisions D1 and D2 (log 8), that the run state alone changes is its decision D3 (log 9), and that range ends are
exact and `Dxy0` raises nothing, whatever `I`, is its decision D6 (log 11, unsafe in that case). -/
def Obligations.ErrorsAreThoseOfTheTable : Prop :=
  ∀ (i : Instr) (s : State), s.run = .running →
    ∃ t, exec i s = .next t ∧
      (∀ e, raisedBy i s = some e → OnlyChanges [.run] s t ∧ t.run = .halted e) ∧
      (raisedBy i s = none → ∀ e, t.run ≠ .halted e)

/-- R20 to R22, R39, R60 read as one frame over all instructions: each changes only what its rule names. It rests on these
choices of the spec: D1, D2 for the slot and `sp` of `2nnn` and `00EE` (log 8), D3 for a step that raises (log 9), D6 for
`Dxy0` (log 11), D7 for `Fx1E` (log 12), D8 for `I` (log 13), D9 for `VF` and the shifts (log 14), D14 for `Fx0A` (log 19); on
the pairing of `Fx07`, `Fx15`, `Fx18`, which is general knowledge (G1, PRESUMED, log 28); and on the model's lists of answers
and calls (log 5, 6). -/
def Obligations.InstructionsChangeOnlyWhatTheyName : Prop :=
  ∀ (i : Instr) (s t : State), exec i s = .next t → OnlyChanges (mayWrite i s) s t

/-- R21: the six flag writers leave 0 or 1 in `VF`; every other instruction leaves `VF` alone unless it names register 15 as
its destination. It rests on these choices of the spec: the 0 of `8xy7` and `Dxyn` is D10 (log 15), `VF` untouched by `Fx1E`
is D7 (log 12), by the logic operations D9 (log 14), the empty sprite is D6 (log 11), the wait of `Fx0A` is D14 (log 19); that
`Fx07` writes `Vx` and `Fx15`, `Fx18` no register is general knowledge (G1, PRESUMED, log 28). -/
def Obligations.OnlySixInstructionsWriteTheFlag : Prop :=
  ∀ (i : Instr) (s t : State), exec i s = .next t → raisedBy i s = none →
    (writesFlag i = true → (t.reg 15).toNat ≤ 1) ∧
      (writesFlag i = false → namesReg i 15 = false → t.reg 15 = s.reg 15)

/-- R24: the classes of instructions by what they do to `pc`; a step that raises leaves it (the spec's decision D3, log 9).
That the cycle of `Fx0A` leaves `pc` is part of the spec's decision D14 (log 19), that `Dxy0` raises nothing D6 (log 11), the
stack errors D1 and D2 (log 8). -/
def Obligations.ProgramCounterClasses : Prop :=
  ∀ (i : Instr) (s t : State), exec i s = .next t →
    (∀ e, raisedBy i s = some e → t.pc = s.pc) ∧
      (raisedBy i s = none → ∀ ds, pcAdvance i = some ds → ∃ d ∈ ds, AdvancesBy d s t)

/-- No step of the machine stops with a fault, and the one refusal is the construction with an image that does not fit (R193,
spec/93 U18; log 7, 26): errors are next states. -/
def Obligations.StepsNeverFault : Prop :=
  ∀ s : State, (∃ t, step s = .next t) ∨
    (step s = .refused .programImageTooLong ∧
      ∃ font program, s.nextRequest = .construct font program ∧ 3584 < program.length)

/-- R32, R36, R160, R170, R172, R182: while the machine waits for a key or has halted, a cycle asked for changes nothing, nor
does a key event that finds it halted: only the request is gone; a timer tick moves only the timers. A key event that ends
the wait and the construction of a new instance are what is left out. That a request out of turn changes nothing is the
spec's decision D14, that a tick acts in every run state its decision D15 (log 19, 20); the list of requests is the model's
(log 4). -/
def Obligations.OnlyTimersMoveWhileWaitingOrHalted : Prop :=
  ∀ s : State, ((∃ x, s.run = .awaitingKey x) ∨ ∃ e, s.run = .halted e) →
    (s.nextRequest = .cycle → ∃ t, step s = .next t ∧ OnlyChanges [.requests] s t) ∧
    (∀ e key, s.run = .halted e → s.nextRequest = .keyEvent key → ∃ t, step s = .next t ∧ OnlyChanges [.requests] s t) ∧
    (s.nextRequest = .timerTick → ∃ t, step s = .next t ∧ OnlyChanges [.dt, .st, .requests] s t)

/-- R172 outside the wait, with the spec's decision D14 (log 19): a key event that finds the machine running is dropped.
The list of requests is the model's (log 4). -/
def Obligations.EarlyKeyEventIsDropped : Prop :=
  ∀ (key : Nibble) (rest : List Request) (s : State), s.run = .running → s.ports.requests = .keyEvent key :: rest →
    ∃ t, step s = .next t ∧ OnlyChanges [.requests] s t ∧ t.ports.requests = rest

/-- R175: a tick takes one off each timer that is not zero and nothing else, in every run state. That both move in one step
and in every run state is the spec's decision D15 (log 20); the list of requests is the model's (log 4). -/
def Obligations.TimerTickCountsDown : Prop :=
  ∀ (rest : List Request) (s : State), s.ports.requests = .timerTick :: rest →
    ∃ t, step s = .next t ∧ OnlyChanges [.dt, .st, .requests] s t ∧ t.ports.requests = rest ∧
      t.dt.toNat = s.dt.toNat - 1 ∧ t.st.toNat = s.st.toNat - 1

/-- R175: between two writes the delay timer never increases: a step that raises it executed an `Fx15` or constructed a new
instance. It rests on the pairing G1 (PRESUMED, log 28) and on the spec's decisions D14 and D15 (log 19, 20). -/
def Obligations.DelayTimerOnlyRunsDown : Prop :=
  ∀ s t : State, step s = .next t → s.dt.toNat < t.dt.toNat →
    (∃ x, s.At (.setDelay x) ∧ s.run = .running ∧ s.nextRequest = .cycle) ∨
      ∃ font program, s.nextRequest = .construct font program

/-- R8, R9: each step carries out exactly the oldest request and takes it off the list; with none listed it is a `Cycle()`; no
instruction touches the later requests. The list, and what an empty one stands for, are the model's (log 4). -/
def Obligations.StepsServeRequestsInOrder : Prop :=
  ∀ s : State,
    (∀ r rest, s.ports.requests = r :: rest → step s = serve r (s.setPorts { s.ports with requests := rest })) ∧
    (s.ports.requests = [] → step s = cycle s) ∧
    ∀ t, step s = .next t → t.ports.requests = s.ports.requests.tail

/-- R114, R134, R151, R176 to R178 (the spec's decisions D12, D21; log 5): the surroundings can give every answer: for every
state there are answers with which `Cxkk` leaves any value inside the mask, and the key skips and `Dxyn` go either way. That
`Dxyn` writes 0 where nothing collided is the spec's decision D10 (log 15), that `Dxy0` raises nothing, whatever `I`, its
decision D6 (log 11); both are unsafe. -/
def Obligations.EveryAnswerIsPossible : Prop :=
  ∀ s : State,
    (∀ (x : RegIx) (k v : Byte), v &&& ~~~k = 0 → ∃ rs t,
      exec (.random x k) (s.setPorts { s.ports with randByte := rs }) = .next t ∧ t.reg x = v) ∧
    (∀ (x : RegIx) (skip : Bool), ∃ ks t,
      exec (.skipKeyDown x) (s.setPorts { s.ports with keyDown := ks }) = .next t ∧
        AdvancesBy (if skip = true then 4 else 2) s t) ∧
    (∀ (x : RegIx) (skip : Bool), ∃ ks t,
      exec (.skipKeyUp x) (s.setPorts { s.ports with keyDown := ks }) = .next t ∧
        AdvancesBy (if skip = true then 4 else 2) s t) ∧
    (∀ (x y : RegIx) (n : Nibble) (hit : Bool), raisedBy (.draw x y n) s = none → ∃ cs t,
      exec (.draw x y n) (s.setPorts { s.ports with collided := cs }) = .next t ∧
        (t.reg 15).toNat = if hit = true then 1 else 0)

/-! ## Reset, boot and the end of a run (spec/70_reset_and_hazards.md, spec/10_state.md) -/

/-- R38: `pc = 0x200` and `Running` are the source's; every other value is the spec's decision D4 (log 1, 2): no register or
byte but 0, no live stack entry. It is the machine before the loader has run (log 3). -/
def Obligations.ResetValues : Prop :=
  State.reset.pc.toNat = 0x200 ∧ State.reset.run = .running ∧ State.reset.sp.val = 0 ∧
    (∀ r, State.reset.reg r = 0) ∧ State.reset.i = 0 ∧ State.reset.dt = 0 ∧ State.reset.st = 0 ∧
    (∀ j, j < 16 → State.reset.stack[j]? = some 0) ∧ ∀ a, State.reset.byte a = 0

/-- R38, R190, R192, R193: constructing an instance gives the reset state with the font at `0x050`, the image at `0x200` and 0
elsewhere; the empty stack and the zeros, the 16 stack slots included, are the spec's decision D4 (log 1, 2, 3); an image of
more than 3584 bytes is refused (spec/93 U18; log 26). The list of requests is the model's (log 4). -/
def Obligations.ConstructionLoadsFontAndProgram : Prop :=
  ∀ (font : Vector Byte 80) (program : List Byte) (rest : List Request) (s : State),
    s.ports.requests = .construct font program :: rest →
      (3584 < program.length → step s = .refused .programImageTooLong) ∧
      (program.length ≤ 3584 → ∃ t, step s = .next t ∧ t.pc.toNat = 0x200 ∧ t.run = .running ∧ t.sp.val = 0 ∧
        (∀ r, t.reg r = 0) ∧ t.i = 0 ∧ t.dt = 0 ∧ t.st = 0 ∧ (∀ j, j < 16 → t.stack[j]? = some 0) ∧
        t.ports.requests = rest ∧
        (∀ j, j < 80 → font[j]? = some (t.byte (0x050 + j))) ∧
        (∀ j, j < program.length → program[j]? = some (t.byte (0x200 + j))) ∧
        ∀ a, a < 0x050 ∨ (0x0A0 ≤ a ∧ a < 0x200) ∨ 0x200 + program.length ≤ a → t.byte a = 0)

/-- R37 (which the spec marks as derived), from every state that meets it and for every request: the ranges of `pc` and of the
live stack entries, the `Fx0A` a waiting machine waits on, and the canonical memory (log 2) are kept by every step. What the
live entries are rests on the spec's decisions D1 and D2 (log 8), that a raising step keeps `pc` and memory on D3 (log 9),
that a waiting machine keeps both on D14 (log 19), that a constructed instance has no live entry on D4 (log 1, 2). -/
def Obligations.EveryStepKeepsTheInvariants : Prop :=
  ∀ s t : State, s.Inv → step s = .next t → t.Inv

/-- R37, R38: the invariants hold after reset. That no stack entry is live and that memory lists nothing rests on the spec's
decision D4 (log 1, 2). -/
def Obligations.ResetMeetsTheInvariants : Prop := State.reset.Inv

/-- R202 (which the spec marks as derived and as its decision D24, log 27): with no request listed, so that the step is a cycle
(log 4), a running machine is at a fixed point exactly at a `1nnn` to itself or a `Bnnn` whose sum is its own address. -/
def Obligations.FixedPointsAreJumpsToThemselves : Prop :=
  ∀ s : State, s.run = .running → s.ports.requests = [] →
    (step s = .next s ↔
      (∃ n, s.At (.jump n) ∧ n.toNat = s.pc.toNat) ∨
        ∃ n, s.At (.jumpOffset n) ∧ n.toNat + (s.reg 0).toNat = s.pc.toNat)
end

