-- ==== Sys2Proof/Laws/Decode.lean ====
section
/-! SUPPORT. The fields of an encoded word (spec/30_encoding.md R72, R73): what each field function reads from each format. -/

namespace Sys2Proof

variable (op x y n : Nibble) (k sub : Byte) (a : Imm12)

@[simp] theorem opField_formatA : opField (formatA op a) = op := by
  ext j hj; simp only [opField, formatA, BitVec.getElem_extractLsb', BitVec.getLsbD_append]; interval_cases j <;> simp

@[simp] theorem nnnField_formatA : nnnField (formatA op a) = a := by
  ext j hj; simp only [nnnField, formatA, BitVec.getElem_extractLsb', BitVec.getLsbD_append]; interval_cases j <;> simp

@[simp] theorem opField_formatXK : opField (formatXK op x k) = op := by
  ext j hj; simp only [opField, formatXK, BitVec.getElem_extractLsb', BitVec.getLsbD_append]; interval_cases j <;> simp

@[simp] theorem xField_formatXK : xField (formatXK op x k) = x := by
  ext j hj; simp only [xField, formatXK, BitVec.getElem_extractLsb', BitVec.getLsbD_append]; interval_cases j <;> simp

@[simp] theorem kkField_formatXK : kkField (formatXK op x k) = k := by
  ext j hj; simp only [kkField, formatXK, BitVec.getElem_extractLsb', BitVec.getLsbD_append]; interval_cases j <;> simp

@[simp] theorem opField_formatXYN : opField (formatXYN op x y n) = op := by
  ext j hj; simp only [opField, formatXYN, BitVec.getElem_extractLsb', BitVec.getLsbD_append]; interval_cases j <;> simp

@[simp] theorem xField_formatXYN : xField (formatXYN op x y n) = x := by
  ext j hj; simp only [xField, formatXYN, BitVec.getElem_extractLsb', BitVec.getLsbD_append]; interval_cases j <;> simp

@[simp] theorem yField_formatXYN : yField (formatXYN op x y n) = y := by
  ext j hj; simp only [yField, formatXYN, BitVec.getElem_extractLsb', BitVec.getLsbD_append]; interval_cases j <;> simp

@[simp] theorem nField_formatXYN : nField (formatXYN op x y n) = n := by
  ext j hj; simp only [nField, formatXYN, BitVec.getElem_extractLsb', BitVec.getLsbD_append]; interval_cases j <;> simp

/-- Format `X` is format `XK` with a fixed bottom byte. -/
theorem formatX_eq : formatX op x sub = formatXK op x sub := rfl

/-! ## A word is made of its fields -/

/-- Every word is the format-`A` word of its fields. -/
theorem formatA_fields (w : Word) : formatA (opField w) (nnnField w) = w := by
  refine BitVec.eq_of_getLsbD_eq fun j hj => ?_
  simp only [opField, nnnField, formatA, BitVec.getLsbD_append, BitVec.getLsbD_extractLsb']
  interval_cases j <;> simp

/-- Every word is the format-`XK` word of its fields. -/
theorem formatXK_fields (w : Word) : formatXK (opField w) (xField w) (kkField w) = w := by
  refine BitVec.eq_of_getLsbD_eq fun j hj => ?_
  simp only [opField, xField, kkField, formatXK, BitVec.getLsbD_append, BitVec.getLsbD_extractLsb']
  interval_cases j <;> simp

/-- Every word is the format-`XYN` word of its fields. -/
theorem formatXYN_fields (w : Word) : formatXYN (opField w) (xField w) (yField w) (nField w) = w := by
  refine BitVec.eq_of_getLsbD_eq fun j hj => ?_
  simp only [opField, xField, yField, nField, formatXYN, BitVec.getLsbD_append, BitVec.getLsbD_extractLsb']
  interval_cases j <;> simp

/-! ## The full-word literals are not the words of other groups (R75) -/

/-- A word whose top nibble is not 0 is neither `0x00E0` nor `0x00EE`. -/
theorem not_literal_of_op {w : Word} (h : opField w ≠ 0#4) : w ≠ 0x00E0#16 ∧ w ≠ 0x00EE#16 := by
  constructor <;> rintro rfl <;> exact h (by decide)

/-- A word that is neither literal is decoded by its top nibble. -/
theorem decode_of_not_literal {w : Word} (h : w ≠ 0x00E0#16 ∧ w ≠ 0x00EE#16) : decode w = decodeTopNibble w := by
  rw [decode, if_neg h.1, if_neg h.2]

end Sys2Proof
end

