-- ==== Sys2Proof/Laws/State.lean ====
section
/-! SUPPORT. One lemma per field per update of the state, each true by definition, so that no later proof unfolds a record
update. -/

namespace Sys2Proof.Machine

variable (s : State)

/-! ## `State.setReg` -/

@[simp] theorem State.setReg_pc (x : RegIx) (b : Byte) : (s.setReg x b).pc = s.pc := rfl
@[simp] theorem State.setReg_i (x : RegIx) (b : Byte) : (s.setReg x b).i = s.i := rfl
@[simp] theorem State.setReg_sp (x : RegIx) (b : Byte) : (s.setReg x b).sp = s.sp := rfl
@[simp] theorem State.setReg_stack (x : RegIx) (b : Byte) : (s.setReg x b).stack = s.stack := rfl
@[simp] theorem State.setReg_dt (x : RegIx) (b : Byte) : (s.setReg x b).dt = s.dt := rfl
@[simp] theorem State.setReg_st (x : RegIx) (b : Byte) : (s.setReg x b).st = s.st := rfl
@[simp] theorem State.setReg_run (x : RegIx) (b : Byte) : (s.setReg x b).run = s.run := rfl
@[simp] theorem State.setReg_mem (x : RegIx) (b : Byte) : (s.setReg x b).mem = s.mem := rfl
@[simp] theorem State.setReg_ports (x : RegIx) (b : Byte) : (s.setReg x b).ports = s.ports := rfl
@[simp] theorem State.setReg_byte (x : RegIx) (b : Byte) (a : Nat) : (s.setReg x b).byte a = s.byte a := rfl

/-! ## `State.setRegs` -/

@[simp] theorem State.setRegs_pc (bytes : List Byte) : (s.setRegs bytes).pc = s.pc := rfl
@[simp] theorem State.setRegs_i (bytes : List Byte) : (s.setRegs bytes).i = s.i := rfl
@[simp] theorem State.setRegs_sp (bytes : List Byte) : (s.setRegs bytes).sp = s.sp := rfl
@[simp] theorem State.setRegs_stack (bytes : List Byte) : (s.setRegs bytes).stack = s.stack := rfl
@[simp] theorem State.setRegs_dt (bytes : List Byte) : (s.setRegs bytes).dt = s.dt := rfl
@[simp] theorem State.setRegs_st (bytes : List Byte) : (s.setRegs bytes).st = s.st := rfl
@[simp] theorem State.setRegs_run (bytes : List Byte) : (s.setRegs bytes).run = s.run := rfl
@[simp] theorem State.setRegs_mem (bytes : List Byte) : (s.setRegs bytes).mem = s.mem := rfl
@[simp] theorem State.setRegs_ports (bytes : List Byte) : (s.setRegs bytes).ports = s.ports := rfl
@[simp] theorem State.setRegs_byte (bytes : List Byte) (a : Nat) : (s.setRegs bytes).byte a = s.byte a := rfl

/-! ## `State.setPc` -/

@[simp] theorem State.setPc_v (w : Word) : (s.setPc w).v = s.v := rfl
@[simp] theorem State.setPc_pc (w : Word) : (s.setPc w).pc = w := rfl
@[simp] theorem State.setPc_i (w : Word) : (s.setPc w).i = s.i := rfl
@[simp] theorem State.setPc_sp (w : Word) : (s.setPc w).sp = s.sp := rfl
@[simp] theorem State.setPc_stack (w : Word) : (s.setPc w).stack = s.stack := rfl
@[simp] theorem State.setPc_dt (w : Word) : (s.setPc w).dt = s.dt := rfl
@[simp] theorem State.setPc_st (w : Word) : (s.setPc w).st = s.st := rfl
@[simp] theorem State.setPc_run (w : Word) : (s.setPc w).run = s.run := rfl
@[simp] theorem State.setPc_mem (w : Word) : (s.setPc w).mem = s.mem := rfl
@[simp] theorem State.setPc_ports (w : Word) : (s.setPc w).ports = s.ports := rfl
@[simp] theorem State.setPc_reg (w : Word) (r : RegIx) : (s.setPc w).reg r = s.reg r := rfl
@[simp] theorem State.setPc_byte (w : Word) (a : Nat) : (s.setPc w).byte a = s.byte a := rfl

/-! ## `State.setI` -/

@[simp] theorem State.setI_v (w : Word) : (s.setI w).v = s.v := rfl
@[simp] theorem State.setI_pc (w : Word) : (s.setI w).pc = s.pc := rfl
@[simp] theorem State.setI_i (w : Word) : (s.setI w).i = w := rfl
@[simp] theorem State.setI_sp (w : Word) : (s.setI w).sp = s.sp := rfl
@[simp] theorem State.setI_stack (w : Word) : (s.setI w).stack = s.stack := rfl
@[simp] theorem State.setI_dt (w : Word) : (s.setI w).dt = s.dt := rfl
@[simp] theorem State.setI_st (w : Word) : (s.setI w).st = s.st := rfl
@[simp] theorem State.setI_run (w : Word) : (s.setI w).run = s.run := rfl
@[simp] theorem State.setI_mem (w : Word) : (s.setI w).mem = s.mem := rfl
@[simp] theorem State.setI_ports (w : Word) : (s.setI w).ports = s.ports := rfl
@[simp] theorem State.setI_reg (w : Word) (r : RegIx) : (s.setI w).reg r = s.reg r := rfl
@[simp] theorem State.setI_byte (w : Word) (a : Nat) : (s.setI w).byte a = s.byte a := rfl

/-! ## `State.setDt` -/

@[simp] theorem State.setDt_v (b : Byte) : (s.setDt b).v = s.v := rfl
@[simp] theorem State.setDt_pc (b : Byte) : (s.setDt b).pc = s.pc := rfl
@[simp] theorem State.setDt_i (b : Byte) : (s.setDt b).i = s.i := rfl
@[simp] theorem State.setDt_sp (b : Byte) : (s.setDt b).sp = s.sp := rfl
@[simp] theorem State.setDt_stack (b : Byte) : (s.setDt b).stack = s.stack := rfl
@[simp] theorem State.setDt_dt (b : Byte) : (s.setDt b).dt = b := rfl
@[simp] theorem State.setDt_st (b : Byte) : (s.setDt b).st = s.st := rfl
@[simp] theorem State.setDt_run (b : Byte) : (s.setDt b).run = s.run := rfl
@[simp] theorem State.setDt_mem (b : Byte) : (s.setDt b).mem = s.mem := rfl
@[simp] theorem State.setDt_ports (b : Byte) : (s.setDt b).ports = s.ports := rfl
@[simp] theorem State.setDt_reg (b : Byte) (r : RegIx) : (s.setDt b).reg r = s.reg r := rfl
@[simp] theorem State.setDt_byte (b : Byte) (a : Nat) : (s.setDt b).byte a = s.byte a := rfl

/-! ## `State.setSt` -/

@[simp] theorem State.setSt_v (b : Byte) : (s.setSt b).v = s.v := rfl
@[simp] theorem State.setSt_pc (b : Byte) : (s.setSt b).pc = s.pc := rfl
@[simp] theorem State.setSt_i (b : Byte) : (s.setSt b).i = s.i := rfl
@[simp] theorem State.setSt_sp (b : Byte) : (s.setSt b).sp = s.sp := rfl
@[simp] theorem State.setSt_stack (b : Byte) : (s.setSt b).stack = s.stack := rfl
@[simp] theorem State.setSt_dt (b : Byte) : (s.setSt b).dt = s.dt := rfl
@[simp] theorem State.setSt_st (b : Byte) : (s.setSt b).st = b := rfl
@[simp] theorem State.setSt_run (b : Byte) : (s.setSt b).run = s.run := rfl
@[simp] theorem State.setSt_mem (b : Byte) : (s.setSt b).mem = s.mem := rfl
@[simp] theorem State.setSt_ports (b : Byte) : (s.setSt b).ports = s.ports := rfl
@[simp] theorem State.setSt_reg (b : Byte) (r : RegIx) : (s.setSt b).reg r = s.reg r := rfl
@[simp] theorem State.setSt_byte (b : Byte) (a : Nat) : (s.setSt b).byte a = s.byte a := rfl

/-! ## `State.setRun` -/

@[simp] theorem State.setRun_v (r : RunState) : (s.setRun r).v = s.v := rfl
@[simp] theorem State.setRun_pc (r : RunState) : (s.setRun r).pc = s.pc := rfl
@[simp] theorem State.setRun_i (r : RunState) : (s.setRun r).i = s.i := rfl
@[simp] theorem State.setRun_sp (r : RunState) : (s.setRun r).sp = s.sp := rfl
@[simp] theorem State.setRun_stack (r : RunState) : (s.setRun r).stack = s.stack := rfl
@[simp] theorem State.setRun_dt (r : RunState) : (s.setRun r).dt = s.dt := rfl
@[simp] theorem State.setRun_st (r : RunState) : (s.setRun r).st = s.st := rfl
@[simp] theorem State.setRun_run (r : RunState) : (s.setRun r).run = r := rfl
@[simp] theorem State.setRun_mem (r : RunState) : (s.setRun r).mem = s.mem := rfl
@[simp] theorem State.setRun_ports (r : RunState) : (s.setRun r).ports = s.ports := rfl
@[simp] theorem State.setRun_reg (r : RunState) (q : RegIx) : (s.setRun r).reg q = s.reg q := rfl
@[simp] theorem State.setRun_byte (r : RunState) (a : Nat) : (s.setRun r).byte a = s.byte a := rfl

/-! ## `State.setMem` -/

@[simp] theorem State.setMem_v (m : Memory) : (s.setMem m).v = s.v := rfl
@[simp] theorem State.setMem_pc (m : Memory) : (s.setMem m).pc = s.pc := rfl
@[simp] theorem State.setMem_i (m : Memory) : (s.setMem m).i = s.i := rfl
@[simp] theorem State.setMem_sp (m : Memory) : (s.setMem m).sp = s.sp := rfl
@[simp] theorem State.setMem_stack (m : Memory) : (s.setMem m).stack = s.stack := rfl
@[simp] theorem State.setMem_dt (m : Memory) : (s.setMem m).dt = s.dt := rfl
@[simp] theorem State.setMem_st (m : Memory) : (s.setMem m).st = s.st := rfl
@[simp] theorem State.setMem_run (m : Memory) : (s.setMem m).run = s.run := rfl
@[simp] theorem State.setMem_mem (m : Memory) : (s.setMem m).mem = m := rfl
@[simp] theorem State.setMem_ports (m : Memory) : (s.setMem m).ports = s.ports := rfl
@[simp] theorem State.setMem_reg (m : Memory) (r : RegIx) : (s.setMem m).reg r = s.reg r := rfl

/-! ## `State.setPorts` -/

@[simp] theorem State.setPorts_v (p : Ports) : (s.setPorts p).v = s.v := rfl
@[simp] theorem State.setPorts_pc (p : Ports) : (s.setPorts p).pc = s.pc := rfl
@[simp] theorem State.setPorts_i (p : Ports) : (s.setPorts p).i = s.i := rfl
@[simp] theorem State.setPorts_sp (p : Ports) : (s.setPorts p).sp = s.sp := rfl
@[simp] theorem State.setPorts_stack (p : Ports) : (s.setPorts p).stack = s.stack := rfl
@[simp] theorem State.setPorts_dt (p : Ports) : (s.setPorts p).dt = s.dt := rfl
@[simp] theorem State.setPorts_st (p : Ports) : (s.setPorts p).st = s.st := rfl
@[simp] theorem State.setPorts_run (p : Ports) : (s.setPorts p).run = s.run := rfl
@[simp] theorem State.setPorts_mem (p : Ports) : (s.setPorts p).mem = s.mem := rfl
@[simp] theorem State.setPorts_ports (p : Ports) : (s.setPorts p).ports = p := rfl
@[simp] theorem State.setPorts_reg (p : Ports) (r : RegIx) : (s.setPorts p).reg r = s.reg r := rfl
@[simp] theorem State.setPorts_byte (p : Ports) (a : Nat) : (s.setPorts p).byte a = s.byte a := rfl

/-! ## `State.advance` -/

@[simp] theorem State.advance_v : (s.advance).v = s.v := rfl
@[simp] theorem State.advance_pc : (s.advance).pc = s.pc + 2 := rfl
@[simp] theorem State.advance_i : (s.advance).i = s.i := rfl
@[simp] theorem State.advance_sp : (s.advance).sp = s.sp := rfl
@[simp] theorem State.advance_stack : (s.advance).stack = s.stack := rfl
@[simp] theorem State.advance_dt : (s.advance).dt = s.dt := rfl
@[simp] theorem State.advance_st : (s.advance).st = s.st := rfl
@[simp] theorem State.advance_run : (s.advance).run = s.run := rfl
@[simp] theorem State.advance_mem : (s.advance).mem = s.mem := rfl
@[simp] theorem State.advance_ports : (s.advance).ports = s.ports := rfl
@[simp] theorem State.advance_reg (r : RegIx) : (s.advance).reg r = s.reg r := rfl
@[simp] theorem State.advance_byte (a : Nat) : (s.advance).byte a = s.byte a := rfl

/-! ## `State.skipIf` -/

@[simp] theorem State.skipIf_v (c : Bool) : (s.skipIf c).v = s.v := rfl
@[simp] theorem State.skipIf_pc (c : Bool) : (s.skipIf c).pc = s.pc + (if c then 4 else 2) := rfl
@[simp] theorem State.skipIf_i (c : Bool) : (s.skipIf c).i = s.i := rfl
@[simp] theorem State.skipIf_sp (c : Bool) : (s.skipIf c).sp = s.sp := rfl
@[simp] theorem State.skipIf_stack (c : Bool) : (s.skipIf c).stack = s.stack := rfl
@[simp] theorem State.skipIf_dt (c : Bool) : (s.skipIf c).dt = s.dt := rfl
@[simp] theorem State.skipIf_st (c : Bool) : (s.skipIf c).st = s.st := rfl
@[simp] theorem State.skipIf_run (c : Bool) : (s.skipIf c).run = s.run := rfl
@[simp] theorem State.skipIf_mem (c : Bool) : (s.skipIf c).mem = s.mem := rfl
@[simp] theorem State.skipIf_ports (c : Bool) : (s.skipIf c).ports = s.ports := rfl
@[simp] theorem State.skipIf_reg (c : Bool) (r : RegIx) : (s.skipIf c).reg r = s.reg r := rfl
@[simp] theorem State.skipIf_byte (c : Bool) (a : Nat) : (s.skipIf c).byte a = s.byte a := rfl

/-! ## `State.raise` -/

@[simp] theorem State.raise_v (e : ExecError) : (s.raise e).v = s.v := rfl
@[simp] theorem State.raise_pc (e : ExecError) : (s.raise e).pc = s.pc := rfl
@[simp] theorem State.raise_i (e : ExecError) : (s.raise e).i = s.i := rfl
@[simp] theorem State.raise_sp (e : ExecError) : (s.raise e).sp = s.sp := rfl
@[simp] theorem State.raise_stack (e : ExecError) : (s.raise e).stack = s.stack := rfl
@[simp] theorem State.raise_dt (e : ExecError) : (s.raise e).dt = s.dt := rfl
@[simp] theorem State.raise_st (e : ExecError) : (s.raise e).st = s.st := rfl
@[simp] theorem State.raise_run (e : ExecError) : (s.raise e).run = .halted e := rfl
@[simp] theorem State.raise_mem (e : ExecError) : (s.raise e).mem = s.mem := rfl
@[simp] theorem State.raise_ports (e : ExecError) : (s.raise e).ports = s.ports := rfl
@[simp] theorem State.raise_reg (e : ExecError) (r : RegIx) : (s.raise e).reg r = s.reg r := rfl
@[simp] theorem State.raise_byte (e : ExecError) (a : Nat) : (s.raise e).byte a = s.byte a := rfl

/-! ## `State.writeFlag` -/

@[simp] theorem State.writeFlag_pc (f : Bool) : (s.writeFlag f).pc = s.pc := rfl
@[simp] theorem State.writeFlag_i (f : Bool) : (s.writeFlag f).i = s.i := rfl
@[simp] theorem State.writeFlag_sp (f : Bool) : (s.writeFlag f).sp = s.sp := rfl
@[simp] theorem State.writeFlag_stack (f : Bool) : (s.writeFlag f).stack = s.stack := rfl
@[simp] theorem State.writeFlag_dt (f : Bool) : (s.writeFlag f).dt = s.dt := rfl
@[simp] theorem State.writeFlag_st (f : Bool) : (s.writeFlag f).st = s.st := rfl
@[simp] theorem State.writeFlag_run (f : Bool) : (s.writeFlag f).run = s.run := rfl
@[simp] theorem State.writeFlag_mem (f : Bool) : (s.writeFlag f).mem = s.mem := rfl
@[simp] theorem State.writeFlag_ports (f : Bool) : (s.writeFlag f).ports = s.ports := rfl
@[simp] theorem State.writeFlag_byte (f : Bool) (a : Nat) : (s.writeFlag f).byte a = s.byte a := rfl

/-! ## `State.writeResult` -/

@[simp] theorem State.writeResult_pc (x : RegIx) (r : Byte) (f : Bool) : (s.writeResult x r f).pc = s.pc := rfl
@[simp] theorem State.writeResult_i (x : RegIx) (r : Byte) (f : Bool) : (s.writeResult x r f).i = s.i := rfl
@[simp] theorem State.writeResult_sp (x : RegIx) (r : Byte) (f : Bool) : (s.writeResult x r f).sp = s.sp := rfl
@[simp] theorem State.writeResult_stack (x : RegIx) (r : Byte) (f : Bool) : (s.writeResult x r f).stack = s.stack := rfl
@[simp] theorem State.writeResult_dt (x : RegIx) (r : Byte) (f : Bool) : (s.writeResult x r f).dt = s.dt := rfl
@[simp] theorem State.writeResult_st (x : RegIx) (r : Byte) (f : Bool) : (s.writeResult x r f).st = s.st := rfl
@[simp] theorem State.writeResult_run (x : RegIx) (r : Byte) (f : Bool) : (s.writeResult x r f).run = s.run := rfl
@[simp] theorem State.writeResult_mem (x : RegIx) (r : Byte) (f : Bool) : (s.writeResult x r f).mem = s.mem := rfl
@[simp] theorem State.writeResult_ports (x : RegIx) (r : Byte) (f : Bool) : (s.writeResult x r f).ports = s.ports := rfl
@[simp] theorem State.writeResult_byte (x : RegIx) (r : Byte) (f : Bool) (a : Nat) : (s.writeResult x r f).byte a = s.byte a := rfl

/-! ## `State.record` -/

@[simp] theorem State.record_v (c : Call) : (s.record c).v = s.v := rfl
@[simp] theorem State.record_pc (c : Call) : (s.record c).pc = s.pc := rfl
@[simp] theorem State.record_i (c : Call) : (s.record c).i = s.i := rfl
@[simp] theorem State.record_sp (c : Call) : (s.record c).sp = s.sp := rfl
@[simp] theorem State.record_stack (c : Call) : (s.record c).stack = s.stack := rfl
@[simp] theorem State.record_dt (c : Call) : (s.record c).dt = s.dt := rfl
@[simp] theorem State.record_st (c : Call) : (s.record c).st = s.st := rfl
@[simp] theorem State.record_run (c : Call) : (s.record c).run = s.run := rfl
@[simp] theorem State.record_mem (c : Call) : (s.record c).mem = s.mem := rfl
@[simp] theorem State.record_reg (c : Call) (r : RegIx) : (s.record c).reg r = s.reg r := rfl
@[simp] theorem State.record_byte (c : Call) (a : Nat) : (s.record c).byte a = s.byte a := rfl

/-! ## `State.displayClear` -/

@[simp] theorem State.displayClear_v : (s.displayClear).v = s.v := rfl
@[simp] theorem State.displayClear_pc : (s.displayClear).pc = s.pc := rfl
@[simp] theorem State.displayClear_i : (s.displayClear).i = s.i := rfl
@[simp] theorem State.displayClear_sp : (s.displayClear).sp = s.sp := rfl
@[simp] theorem State.displayClear_stack : (s.displayClear).stack = s.stack := rfl
@[simp] theorem State.displayClear_dt : (s.displayClear).dt = s.dt := rfl
@[simp] theorem State.displayClear_st : (s.displayClear).st = s.st := rfl
@[simp] theorem State.displayClear_run : (s.displayClear).run = s.run := rfl
@[simp] theorem State.displayClear_mem : (s.displayClear).mem = s.mem := rfl
@[simp] theorem State.displayClear_reg (r : RegIx) : (s.displayClear).reg r = s.reg r := rfl
@[simp] theorem State.displayClear_byte (a : Nat) : (s.displayClear).byte a = s.byte a := rfl

/-! ## `State.displayDraw` -/

@[simp] theorem State.displayDraw_v (x y : Byte) (rows : List Byte) : (s.displayDraw x y rows).v = s.v := rfl
@[simp] theorem State.displayDraw_pc (x y : Byte) (rows : List Byte) : (s.displayDraw x y rows).pc = s.pc := rfl
@[simp] theorem State.displayDraw_i (x y : Byte) (rows : List Byte) : (s.displayDraw x y rows).i = s.i := rfl
@[simp] theorem State.displayDraw_sp (x y : Byte) (rows : List Byte) : (s.displayDraw x y rows).sp = s.sp := rfl
@[simp] theorem State.displayDraw_stack (x y : Byte) (rows : List Byte) : (s.displayDraw x y rows).stack = s.stack := rfl
@[simp] theorem State.displayDraw_dt (x y : Byte) (rows : List Byte) : (s.displayDraw x y rows).dt = s.dt := rfl
@[simp] theorem State.displayDraw_st (x y : Byte) (rows : List Byte) : (s.displayDraw x y rows).st = s.st := rfl
@[simp] theorem State.displayDraw_run (x y : Byte) (rows : List Byte) : (s.displayDraw x y rows).run = s.run := rfl
@[simp] theorem State.displayDraw_mem (x y : Byte) (rows : List Byte) : (s.displayDraw x y rows).mem = s.mem := rfl
@[simp] theorem State.displayDraw_reg (x y : Byte) (rows : List Byte) (r : RegIx) : (s.displayDraw x y rows).reg r = s.reg r := rfl
@[simp] theorem State.displayDraw_byte (x y : Byte) (rows : List Byte) (a : Nat) : (s.displayDraw x y rows).byte a = s.byte a := rfl

/-! ## `State.askKeyDown` -/

@[simp] theorem State.askKeyDown_v (key : Byte) : (s.askKeyDown key).v = s.v := rfl
@[simp] theorem State.askKeyDown_pc (key : Byte) : (s.askKeyDown key).pc = s.pc := rfl
@[simp] theorem State.askKeyDown_i (key : Byte) : (s.askKeyDown key).i = s.i := rfl
@[simp] theorem State.askKeyDown_sp (key : Byte) : (s.askKeyDown key).sp = s.sp := rfl
@[simp] theorem State.askKeyDown_stack (key : Byte) : (s.askKeyDown key).stack = s.stack := rfl
@[simp] theorem State.askKeyDown_dt (key : Byte) : (s.askKeyDown key).dt = s.dt := rfl
@[simp] theorem State.askKeyDown_st (key : Byte) : (s.askKeyDown key).st = s.st := rfl
@[simp] theorem State.askKeyDown_run (key : Byte) : (s.askKeyDown key).run = s.run := rfl
@[simp] theorem State.askKeyDown_mem (key : Byte) : (s.askKeyDown key).mem = s.mem := rfl
@[simp] theorem State.askKeyDown_reg (key : Byte) (r : RegIx) : (s.askKeyDown key).reg r = s.reg r := rfl
@[simp] theorem State.askKeyDown_byte (key : Byte) (a : Nat) : (s.askKeyDown key).byte a = s.byte a := rfl

/-! ## `State.askRandom` -/

@[simp] theorem State.askRandom_v : (s.askRandom).v = s.v := rfl
@[simp] theorem State.askRandom_pc : (s.askRandom).pc = s.pc := rfl
@[simp] theorem State.askRandom_i : (s.askRandom).i = s.i := rfl
@[simp] theorem State.askRandom_sp : (s.askRandom).sp = s.sp := rfl
@[simp] theorem State.askRandom_stack : (s.askRandom).stack = s.stack := rfl
@[simp] theorem State.askRandom_dt : (s.askRandom).dt = s.dt := rfl
@[simp] theorem State.askRandom_st : (s.askRandom).st = s.st := rfl
@[simp] theorem State.askRandom_run : (s.askRandom).run = s.run := rfl
@[simp] theorem State.askRandom_mem : (s.askRandom).mem = s.mem := rfl
@[simp] theorem State.askRandom_reg (r : RegIx) : (s.askRandom).reg r = s.reg r := rfl
@[simp] theorem State.askRandom_byte (a : Nat) : (s.askRandom).byte a = s.byte a := rfl

/-! ## `State.takeRequest` -/

@[simp] theorem State.takeRequest_v : (s.takeRequest).v = s.v := rfl
@[simp] theorem State.takeRequest_pc : (s.takeRequest).pc = s.pc := rfl
@[simp] theorem State.takeRequest_i : (s.takeRequest).i = s.i := rfl
@[simp] theorem State.takeRequest_sp : (s.takeRequest).sp = s.sp := rfl
@[simp] theorem State.takeRequest_stack : (s.takeRequest).stack = s.stack := rfl
@[simp] theorem State.takeRequest_dt : (s.takeRequest).dt = s.dt := rfl
@[simp] theorem State.takeRequest_st : (s.takeRequest).st = s.st := rfl
@[simp] theorem State.takeRequest_run : (s.takeRequest).run = s.run := rfl
@[simp] theorem State.takeRequest_mem : (s.takeRequest).mem = s.mem := rfl
@[simp] theorem State.takeRequest_reg (r : RegIx) : (s.takeRequest).reg r = s.reg r := rfl
@[simp] theorem State.takeRequest_byte (a : Nat) : (s.takeRequest).byte a = s.byte a := rfl

/-! ## Reading a register after a write -/

@[simp] theorem State.reg_setReg (x r : RegIx) (b : Byte) :
    (s.setReg x b).reg r = if r = x then b else s.reg r := by
  simp only [State.reg, State.setReg, Vector.getElem_set, BitVec.toNat_inj, eq_comm]

@[simp] theorem State.reg_writeFlag (r : RegIx) (f : Bool) :
    (s.writeFlag f).reg r = if r = vf then flagByte f else s.reg r := by
  simp [State.writeFlag]

/-- R120: the flag is written after the result. -/
@[simp] theorem State.reg_writeResult (x r : RegIx) (b : Byte) (f : Bool) :
    (s.writeResult x b f).reg r = if r = vf then flagByte f else if r = x then b else s.reg r := by
  simp [State.writeResult]

theorem State.reg_setRegs (bytes : List Byte) (r : RegIx) :
    (s.setRegs bytes).reg r = bytes.getD r.toNat (s.reg r) := by
  simp only [State.reg, State.setRegs, Vector.getElem_ofFn]

/-! ## The ports after a call -/

@[simp] theorem State.displayClear_calls : s.displayClear.ports.calls = s.ports.calls ++ [.displayClear] := rfl
@[simp] theorem State.displayDraw_calls (x y : Byte) (rows : List Byte) :
    (s.displayDraw x y rows).ports.calls = s.ports.calls ++ [.displayDraw x y rows] := rfl
@[simp] theorem State.askKeyDown_calls (key : Byte) :
    (s.askKeyDown key).ports.calls = s.ports.calls ++ [.keyDown key] := rfl
@[simp] theorem State.askRandom_calls : s.askRandom.ports.calls = s.ports.calls ++ [.randomByte] := rfl
@[simp] theorem State.displayClear_requests : s.displayClear.ports.requests = s.ports.requests := rfl
@[simp] theorem State.displayDraw_requests (x y : Byte) (rows : List Byte) :
    (s.displayDraw x y rows).ports.requests = s.ports.requests := rfl
@[simp] theorem State.askKeyDown_requests (key : Byte) :
    (s.askKeyDown key).ports.requests = s.ports.requests := rfl
@[simp] theorem State.askRandom_requests : s.askRandom.ports.requests = s.ports.requests := rfl
@[simp] theorem State.displayClear_collided : s.displayClear.ports.collided = s.ports.collided := rfl
@[simp] theorem State.displayClear_keyDown : s.displayClear.ports.keyDown = s.ports.keyDown := rfl
@[simp] theorem State.displayClear_randByte : s.displayClear.ports.randByte = s.ports.randByte := rfl
@[simp] theorem State.displayClear_asked : s.displayClear.ports.asked = s.ports.asked := rfl
@[simp] theorem State.takeRequest_requests : s.takeRequest.ports.requests = s.ports.requests.tail := rfl
@[simp] theorem State.takeRequest_collided : s.takeRequest.ports.collided = s.ports.collided := rfl
@[simp] theorem State.takeRequest_keyDown : s.takeRequest.ports.keyDown = s.ports.keyDown := rfl
@[simp] theorem State.takeRequest_randByte : s.takeRequest.ports.randByte = s.ports.randByte := rfl
@[simp] theorem State.takeRequest_asked : s.takeRequest.ports.asked = s.ports.asked := rfl
@[simp] theorem State.takeRequest_calls : s.takeRequest.ports.calls = s.ports.calls := rfl

/-- With no request listed, taking one changes nothing. -/
theorem State.takeRequest_of_nil (h : s.ports.requests = []) : s.takeRequest = s := by
  obtain ⟨v, pc, i, sp, stack, dt, st, run, mem, ⟨reqs, _, _, _, _, _⟩⟩ := s
  obtain rfl : reqs = [] := h
  rfl

end Sys2Proof.Machine
end

