-- ==== Sys2Proof/Laws/Memory.lean ====
section
/-! SUPPORT. The laws of memory (spec/20_memory.md): reading after writing, the canonical form, and one lemma for each access
primitive that says everything it can answer. -/

namespace Sys2Proof.Machine

/-! ## Reading after writing -/

theorem Memory.get_insert (m : Memory) (a k : Nat) (b : Byte) :
    Memory.get (m.insert a b) k = if k = a then b else m.get k := by
  induction m with
  | nil => simp [Memory.insert, Memory.get, eq_comm]
  | cons c rest ih =>
    obtain ⟨q, d⟩ := c
    simp only [Memory.insert]
    split
    · simp only [Memory.get, eq_comm (a := a)]
    · split
      · next h => subst h; simp only [Memory.get, eq_comm (a := q)]; split <;> rfl
      · simp only [Memory.get, ih]; split
        · next h1 h2 => subst h2; rw [if_neg h1]
        · rfl

theorem Memory.get_erase (m : Memory) (a k : Nat) :
    Memory.get (m.erase a) k = if k = a then Config.memFill else m.get k := by
  induction m with
  | nil => simp [Memory.erase, Memory.get]
  | cons c rest ih =>
    obtain ⟨q, d⟩ := c
    simp only [Memory.erase] at ih
    by_cases hq : q = a
    · subst hq
      simp only [Memory.erase, List.filter_cons, bne_self_eq_false, Bool.false_eq_true, if_false, ih, Memory.get,
        eq_comm (a := q)]
      split <;> rfl
    · have hne : (q != a) = true := by simpa using hq
      simp only [Memory.erase, List.filter_cons, hne, if_true, Memory.get, ih]
      split
      · next h => subst h; rw [if_neg hq]
      · rfl

/-- R55: the written address reads as the byte, every other as before. -/
@[simp] theorem Memory.get_put (m : Memory) (a k : Nat) (b : Byte) :
    Memory.get (m.put a b) k = if k = a then b else m.get k := by
  simp only [Memory.put]
  split
  · next h => rw [Memory.get_erase, h]
  · exact Memory.get_insert m a k b

/-- R56: inside the run the byte of the list, outside it as before. -/
theorem Memory.get_putAll (m : Memory) (a k : Nat) (bs : List Byte) :
    Memory.get (m.putAll a bs) k = if a ≤ k then bs.getD (k - a) (m.get k) else m.get k := by
  induction bs generalizing m a with
  | nil => simp [Memory.putAll]
  | cons b bs ih =>
    simp only [Memory.putAll, ih, Memory.get_put]
    rcases Nat.lt_trichotomy k a with h | h | h
    · rw [if_neg (by omega), if_neg (by omega), if_neg (by omega)]
    · subst h; rw [if_neg (by omega), if_pos rfl, if_pos (Nat.le_refl k)]; simp
    · rw [if_pos (by omega), if_neg (by omega), if_pos (by omega)]
      obtain ⟨d, hd⟩ : ∃ d, k - a = d + 1 := ⟨k - a - 1, by omega⟩
      rw [hd, show k - (a + 1) = d by omega, List.getD_cons_succ]

/-! ## The canonical form -/

theorem Memory.mem_insert {m : Memory} {a : Nat} {b : Byte} {c : Host.Cell} (h : c ∈ m.insert a b) :
    c = (a, b) ∨ c ∈ m := by
  induction m with
  | nil => exact .inl (by simpa [Memory.insert] using h)
  | cons p rest ih =>
    simp only [Memory.insert] at h
    split at h
    · simpa using h
    · split at h
      · rcases List.mem_cons.1 h with h | h
        · exact .inl h
        · exact .inr (List.mem_cons_of_mem _ h)
      · rcases List.mem_cons.1 h with h | h
        · exact .inr (h ▸ List.mem_cons_self)
        · exact (ih h).imp id (List.mem_cons_of_mem _)

theorem Memory.wf_insert {m : Memory} {a : Nat} {b : Byte} (h : m.wf) (ha : a < Config.memSize)
    (hb : b ≠ Config.memFill) : Memory.wf (m.insert a b) := by
  refine ⟨?_, fun c hc => (Memory.mem_insert hc).elim (fun e => e ▸ ⟨ha, hb⟩) (h.2 c)⟩
  have hp := h.1
  clear h ha hb
  induction m with
  | nil => simp [Memory.insert]
  | cons p rest ih =>
    obtain ⟨hlt, hrest⟩ := List.pairwise_cons.1 hp
    simp only [Memory.insert]
    split
    · next hap =>
      refine List.pairwise_cons.2 ⟨fun q hq => ?_, hp⟩
      rcases List.mem_cons.1 hq with rfl | hq
      · exact hap
      · exact Nat.lt_trans hap (hlt q hq)
    · split
      · next hpa => exact List.pairwise_cons.2 ⟨fun q hq => hpa ▸ hlt q hq, hrest⟩
      · next h1 h2 =>
        refine List.pairwise_cons.2 ⟨fun q hq => ?_, ih hrest⟩
        rcases Memory.mem_insert hq with rfl | hq
        · have : ¬ a < p.1 := h1
          have : ¬ p.1 = a := h2
          show p.1 < a
          omega
        · exact hlt q hq

theorem Memory.wf_erase {m : Memory} (a : Nat) (h : m.wf) : Memory.wf (m.erase a) :=
  ⟨h.1.filter _, fun c hc => h.2 c (List.mem_filter.1 hc).1⟩

/-- A write to a valid address keeps the canonical form. -/
theorem Memory.wf_put {m : Memory} {a : Nat} (b : Byte) (h : m.wf) (ha : a < Config.memSize) :
    Memory.wf (m.put a b) := by
  simp only [Memory.put]
  split
  · exact Memory.wf_erase a h
  · next hb => exact Memory.wf_insert h ha hb

/-- A block write inside memory keeps the canonical form. -/
theorem Memory.wf_putAll {m : Memory} {a : Nat} {bs : List Byte} (h : m.wf)
    (ha : a + bs.length ≤ Config.memSize ∨ bs = []) : Memory.wf (m.putAll a bs) := by
  induction bs generalizing m a with
  | nil => exact h
  | cons b bs ih =>
    have ha' : a + (bs.length + 1) ≤ Config.memSize := by simpa using ha
    exact ih (Memory.wf_put b h (by omega)) (.inl (by omega))

theorem Memory.wf_nil : Memory.wf [] := ⟨List.Pairwise.nil, by simp⟩

/-! ## The access primitives -/

/-- R52, everything it answers. -/
theorem memRead_cases (m : Memory) (a : Nat) :
    (a < 4096 ∧ memRead m a = .ok (m.get a)) ∨ (4096 ≤ a ∧ memRead m a = .error .addressOutOfRange) := by
  rcases Nat.lt_or_ge a 4096 with h | h
  · exact .inl ⟨h, if_pos h⟩
  · exact .inr ⟨h, if_neg (Nat.not_lt.2 h)⟩

/-- R53, everything it answers. -/
theorem memReadWord_cases (m : Memory) (a : Nat) :
    (a + 1 < 4096 ∧ memReadWord m a = .ok (m.get a ++ m.get (a + 1))) ∨
      (4096 ≤ a + 1 ∧ memReadWord m a = .error .addressOutOfRange) := by
  rcases Nat.lt_or_ge (a + 1) 4096 with h | h
  · exact .inl ⟨h, if_pos h⟩
  · exact .inr ⟨h, if_neg (Nat.not_lt.2 h)⟩

theorem memReadRange_ok {m : Memory} {a b : Nat} (h : ¬ (a < b ∧ 4096 < b)) :
    memReadRange m a b = .ok ((List.range' a (b - a)).map m.get) := if_neg h

theorem memReadRange_error {m : Memory} {a b : Nat} (h : a < b ∧ 4096 < b) :
    memReadRange m a b = .error .addressOutOfRange := if_pos h

theorem memWrite_ok {m : Memory} {a : Nat} (b : Byte) (h : a < 4096) : memWrite m a b = .ok (m.put a b) := if_pos h

theorem memWrite_error {m : Memory} {a : Nat} (b : Byte) (h : 4096 ≤ a) :
    memWrite m a b = .error .addressOutOfRange := if_neg (Nat.not_lt.2 h)

theorem memCopy_ok {m : Memory} {a : Nat} {bs : List Byte} (h : ¬ (0 < bs.length ∧ 4096 < a + bs.length)) :
    memCopy m a bs = .ok (m.putAll a bs) := if_neg h

theorem memCopy_error {m : Memory} {a : Nat} {bs : List Byte} (h : 0 < bs.length ∧ 4096 < a + bs.length) :
    memCopy m a bs = .error .addressOutOfRange := if_pos h

/-- A block write that answers a memory keeps the canonical form. -/
theorem memCopy_wf {m m' : Memory} {a : Nat} {bs : List Byte} (h : m.wf) (hc : memCopy m a bs = .ok m') : m'.wf := by
  by_cases hr : 0 < bs.length ∧ 4096 < a + bs.length
  · rw [memCopy_error hr] at hc; cases hc
  · rw [memCopy_ok hr] at hc
    cases hc
    refine Memory.wf_putAll h ?_
    rcases Nat.eq_zero_or_pos bs.length with h0 | h0
    · exact .inr (List.length_eq_zero_iff.1 h0)
    · exact .inl (by simp only [Config.memSize]; omega)

/-- A byte write that answers a memory keeps the canonical form. -/
theorem memWrite_wf {m m' : Memory} {a : Nat} {b : Byte} (h : m.wf) (hc : memWrite m a b = .ok m') : m'.wf := by
  rcases Nat.lt_or_ge a 4096 with ha | ha
  · rw [memWrite_ok b ha] at hc; cases hc; exact Memory.wf_put b h ha
  · rw [memWrite_error b ha] at hc; cases hc

end Sys2Proof.Machine
end

