-- ==== Sys2Proof/Laws/Ops.lean ====
section
/-! SUPPORT. One lemma for each shared operation that says everything it can do (the call stack, raising, the memory
instructions' accesses, the loader), cited instead of unfolding it. -/

namespace Sys2Proof.Machine

/-! ## Raising (R168) -/

theorem attempt_ok (s t : State) : attempt s (.ok t) = .next t := rfl

theorem attempt_error (s : State) (e : ExecError) : attempt s (.error e) = .next (s.raise e) := rfl

/-- An instruction that may raise always answers a next state: its result, or the halt entry. -/
theorem attempt_cases (s : State) (r : Except ExecError State) :
    (∃ t, r = .ok t ∧ attempt s r = .next t) ∨ (∃ e, r = .error e ∧ attempt s r = .next (s.raise e)) := by
  cases r with
  | ok t => exact .inl ⟨t, rfl, rfl⟩
  | error e => exact .inr ⟨e, rfl, rfl⟩

/-! ## The call stack (R29, R30) -/

/-- R29, with 16 live entries. -/
theorem State.push_full {s : State} (a : Word) (h : s.sp.val = 16) : s.push a = .error .stackOverflow := dif_pos h

/-- R29, everything a push does with room left: only `sp` and the slot at `sp` change. -/
theorem State.push_room {s : State} (a : Word) (h : s.sp.val < 16) :
    ∃ stk sp', s.push a = .ok { s with stack := stk, sp := sp' } ∧ sp'.val = s.sp.val + 1 ∧
      ∀ j : Nat, stk[j]? = if s.sp.val = j then some a else s.stack[j]? := by
  have hne : ¬ s.sp.val = Config.stackDepth := by simp only [Config.stackDepth]; omega
  refine ⟨_, _, dif_neg hne, rfl, fun j => ?_⟩
  simp only [Vector.getElem?_set]

/-- R30, with no live entry. -/
theorem State.pop_empty {s : State} (h : s.sp.val = 0) : s.pop = .error .stackUnderflow := dif_pos h

/-- R30, everything a pop does with an entry live: only `sp` and `pc` change. -/
theorem State.pop_live {s : State} (h : 0 < s.sp.val) :
    ∃ w sp', s.pop = .ok { s with pc := w, sp := sp' } ∧ sp'.val + 1 = s.sp.val ∧
      s.stack[s.sp.val - 1]? = some w := by
  have hne : ¬ s.sp.val = 0 := by omega
  refine ⟨_, _, dif_neg hne, ?_, ?_⟩
  · show s.sp.val - 1 + 1 = s.sp.val
    omega
  · simp

/-! ## The memory instructions -/

/-- The registers `Fx55` stores: `x + 1` of them. -/
@[simp] theorem State.length_regsUpTo (s : State) (x : RegIx) : (s.regsUpTo x).length = x.toNat + 1 := by
  have := x.toNat_lt
  simp only [State.regsUpTo, List.length_take, Vector.length_toList]
  omega

theorem State.getD_regsUpTo (s : State) (x r : RegIx) (d : Byte) (h : r.toNat ≤ x.toNat) :
    (s.regsUpTo x).getD r.toNat d = s.reg r := by
  have hr := r.toNat_lt
  simp only [State.regsUpTo, State.reg, List.getD_eq_getElem?_getD]
  rw [List.getElem?_take_of_lt (by omega)]
  simp [hr]

/-- R143, with the range inside memory: the three digits, every other byte as before. -/
theorem storeDigits_ok {m : Memory} {a : Nat} (b : Byte) (h : a + 2 < 4096) :
    ∃ m', storeDigits m a b = .ok m' ∧ (m.wf → m'.wf) ∧
      ∀ k, m'.get k = if k = a + 2 then ones b else if k = a + 1 then tens b else if k = a then hundreds b else m.get k := by
  refine ⟨((m.put a (hundreds b)).put (a + 1) (tens b)).put (a + 2) (ones b), ?_, fun hm => ?_, fun k => ?_⟩
  · have h0 : ¬ Config.memSize ≤ a + 2 := by simp only [Config.memSize]; omega
    have h1 : ∀ m, memWrite m (a + 1) (tens b) = .ok (m.put (a + 1) (tens b)) := fun m => memWrite_ok _ (by omega)
    have h2 : ∀ m, memWrite m (a + 2) (ones b) = .ok (m.put (a + 2) (ones b)) := fun m => memWrite_ok _ h
    have h3 : memWrite m a (hundreds b) = .ok (m.put a (hundreds b)) := memWrite_ok _ (by omega)
    simp only [storeDigits, if_neg h0, h3, bind, Except.bind, h1, h2]
  · have hs : Config.memSize = 4096 := rfl
    exact Memory.wf_put _ (Memory.wf_put _ (Memory.wf_put _ hm (by omega)) (by omega)) (by omega)
  · simp only [Memory.get_put]

/-- R143, with the range leaving memory. -/
theorem storeDigits_error {m : Memory} {a : Nat} (b : Byte) (h : 4096 ≤ a + 2) :
    storeDigits m a b = .error .addressOutOfRange := if_pos h

/-! ## The loader (R192, R193) -/

/-- The loader with an image that fits. -/
theorem loader_ok (font : Vector Byte 80) (program : List Byte) (m : Memory) (h : program.length ≤ 3584) :
    loader font program m = .ok ((m.putAll 0x050 font.toList).putAll 0x200 program) := by
  have h1 : ¬ (0 < font.toList.length ∧ 4096 < 0x050 + font.toList.length) := by
    simp only [Vector.length_toList]; omega
  have h2 : ¬ (0 < program.length ∧ 4096 < 0x200 + program.length) := by omega
  show (memCopy m 0x050 font.toList).bind (fun m1 => memCopy m1 0x200 program) = _
  rw [memCopy_ok h1]
  exact memCopy_ok h2

/-- The loader with an image of more than 3584 bytes. -/
theorem loader_error (font : Vector Byte 80) (program : List Byte) (m : Memory) (h : 3584 < program.length) :
    loader font program m = .error .addressOutOfRange := by
  have h1 : ¬ (0 < font.toList.length ∧ 4096 < 0x050 + font.toList.length) := by
    simp only [Vector.length_toList]; omega
  have h2 : 0 < program.length ∧ 4096 < 0x200 + program.length := by omega
  show (memCopy m 0x050 font.toList).bind (fun m1 => memCopy m1 0x200 program) = _
  rw [memCopy_ok h1]
  exact memCopy_error h2

/-! ## Placing a word for the next fetch (log 30) -/

/-- The bytes of a word, put together again, are the word (R58). -/
theorem append_bytes (w : Word) : (w.extractLsb' 8 8 ++ w.extractLsb' 0 8 : Word) = w := by
  ext i hi
  simp only [BitVec.getElem_append, BitVec.getElem_extractLsb']
  split <;> rw [← BitVec.getLsbD_eq_getElem] <;> congr 1 <;> omega

theorem State.fetchablePc_lt (s : State) : s.fetchablePc.toNat + 1 < 4096 := by
  simp only [State.fetchablePc]
  split
  · next h => simpa only [Config.memSize] using h
  · decide

/-- The state made for a word fetches that word. -/
theorem State.fetch_placeWord (s : State) (w : Word) : (s.placeWord w).fetch = .ok w := by
  have h := s.fetchablePc_lt
  have hm : memReadWord (s.mem.putAll s.fetchablePc.toNat (bytesOfWord w)) s.fetchablePc.toNat = .ok w := by
    rcases memReadWord_cases (s.mem.putAll s.fetchablePc.toNat (bytesOfWord w)) s.fetchablePc.toNat with ⟨_, e⟩ | ⟨h', _⟩
    · rw [e, Memory.get_putAll, Memory.get_putAll, if_pos (Nat.le_refl _), if_pos (Nat.le_succ _), Nat.sub_self,
        Nat.add_sub_cancel_left]
      exact congrArg _ (append_bytes w)
    · omega
  exact hm

end Sys2Proof.Machine
end

