-- ==== Sys2Proof/Laws/Exec.lean ====
section
/-! SUPPORT. One lemma for each path of the instructions that may raise: the next state in terms of the shared operations,
cited instead of unfolding the meaning. -/

namespace Sys2Proof.Machine

variable (s : State) (x y : RegIx)

/-! ## Call and return (R102, R104) -/

theorem exec_call_room (n : Imm12) (h : s.sp.val < 16) :
    ∃ stk sp', exec (.call n) s = .next { s with stack := stk, sp := sp', pc := zextImm n } ∧ sp'.val = s.sp.val + 1 ∧
      ∀ j : Nat, stk[j]? = if s.sp.val = j then some (s.pc + 2) else s.stack[j]? := by
  obtain ⟨stk, sp', e, hsp, hst⟩ := State.push_room (s.pc + 2) h
  refine ⟨stk, sp', ?_, hsp, hst⟩
  show attempt s ((s.push (s.pc + 2)).map fun t => t.setPc (zextImm n)) = _
  rw [e]
  rfl

theorem exec_call_full (n : Imm12) (h : s.sp.val = 16) : exec (.call n) s = .next (s.raise .stackOverflow) := by
  show attempt s ((s.push (s.pc + 2)).map fun t => t.setPc (zextImm n)) = _
  rw [State.push_full _ h]
  rfl

theorem exec_ret_live (h : 0 < s.sp.val) :
    ∃ w sp', exec .ret s = .next { s with pc := w, sp := sp' } ∧ sp'.val + 1 = s.sp.val ∧
      s.stack[s.sp.val - 1]? = some w := by
  obtain ⟨w, sp', e, hsp, hw⟩ := State.pop_live h
  refine ⟨w, sp', ?_, hsp, hw⟩
  show attempt s s.pop = _
  rw [e]
  rfl

theorem exec_ret_empty (h : s.sp.val = 0) : exec .ret s = .next (s.raise .stackUnderflow) := by
  show attempt s s.pop = _
  rw [State.pop_empty h]
  rfl

/-! ## Memory through `I` (R143, R144, R145) -/

theorem exec_storeBcd_inside (h : s.base + 2 < 4096) :
    ∃ m', exec (.storeBcd x) s = .next (s.setMem m').advance ∧ (s.mem.wf → m'.wf) ∧
      ∀ k, m'.get k = if k = s.base + 2 then ones (s.reg x) else if k = s.base + 1 then tens (s.reg x)
        else if k = s.base then hundreds (s.reg x) else s.byte k := by
  obtain ⟨m', e, hwf, hm⟩ := storeDigits_ok (m := s.mem) (s.reg x) h
  refine ⟨m', ?_, hwf, hm⟩
  show attempt s ((storeDigits s.mem s.base (s.reg x)).map fun m => (s.setMem m).advance) = _
  rw [e]
  rfl

theorem exec_storeBcd_outside (h : 4096 ≤ s.base + 2) : exec (.storeBcd x) s = .next (s.raise .addressOutOfRange) := by
  show attempt s ((storeDigits s.mem s.base (s.reg x)).map fun m => (s.setMem m).advance) = _
  rw [storeDigits_error _ h]
  rfl

theorem exec_storeRegs_inside (h : s.base + x.toNat < 4096) :
    exec (.storeRegs x) s = .next (s.setMem (s.mem.putAll s.base (s.regsUpTo x))).advance := by
  show attempt s ((memCopy s.mem s.base (s.regsUpTo x)).map fun m => (s.setMem m).advance) = _
  rw [memCopy_ok (by rw [State.length_regsUpTo]; omega)]
  rfl

theorem exec_storeRegs_outside (h : 4096 ≤ s.base + x.toNat) :
    exec (.storeRegs x) s = .next (s.raise .addressOutOfRange) := by
  show attempt s ((memCopy s.mem s.base (s.regsUpTo x)).map fun m => (s.setMem m).advance) = _
  rw [memCopy_error (by rw [State.length_regsUpTo]; omega)]
  rfl

theorem exec_loadRegs_inside (h : s.base + x.toNat < 4096) :
    exec (.loadRegs x) s = .next (s.setRegs ((List.range' s.base (x.toNat + 1)).map s.byte)).advance := by
  show attempt s ((memReadRange s.mem s.base (s.base + x.toNat + 1)).map fun b => (s.setRegs b).advance) = _
  rw [memReadRange_ok (by omega), Nat.add_assoc, Nat.add_sub_cancel_left]
  rfl

theorem exec_loadRegs_outside (h : 4096 ≤ s.base + x.toNat) :
    exec (.loadRegs x) s = .next (s.raise .addressOutOfRange) := by
  show attempt s ((memReadRange s.mem s.base (s.base + x.toNat + 1)).map fun b => (s.setRegs b).advance) = _
  rw [memReadRange_error (by omega)]
  rfl

/-! ## Drawing (R151) -/

theorem exec_draw_inside (n : Nibble) (h : ¬ (0 < n.toNat ∧ 4096 < s.base + n.toNat)) :
    exec (.draw x y n) s = .next
      ((s.displayDraw (s.reg x) (s.reg y) ((List.range' s.base n.toNat).map s.byte)).writeFlag
        s.collidedAnswer).advance := by
  show attempt s ((memReadRange s.mem s.base (s.base + n.toNat)).map fun rows =>
    ((s.displayDraw (s.reg x) (s.reg y) rows).writeFlag s.collidedAnswer).advance) = _
  rw [memReadRange_ok (by omega), Nat.add_sub_cancel_left]
  rfl

theorem exec_draw_outside (n : Nibble) (h : 0 < n.toNat ∧ 4096 < s.base + n.toNat) :
    exec (.draw x y n) s = .next (s.raise .addressOutOfRange) := by
  show attempt s ((memReadRange s.mem s.base (s.base + n.toNat)).map fun rows =>
    ((s.displayDraw (s.reg x) (s.reg y) rows).writeFlag s.collidedAnswer).advance) = _
  rw [memReadRange_error (by omega)]
  rfl

end Sys2Proof.Machine
end

