-- ==== Sys2Proof/Laws/PerInstr.lean ====
section
/-! SUPPORT. The per-instruction family `OpcodeRow`: the word of an instruction matches the mask and the match of its row of
spec/30_encoding.md R76. -/

namespace Sys2Proof.Laws.OpcodeRow

/-- `w & mask == match` for the word of the instruction and its row of R76. -/
def Statement (i : Instr) : Prop := encode i &&& i.row.1 = i.row.2

/-- A format-`A` word under the mask of its top nibble. -/
theorem formatA_row (op : Nibble) (n : Imm12) : formatA op n &&& 0xF000 = op ++ 0#12 := by
  ext j hj
  simp only [formatA, BitVec.getElem_and, BitVec.getElem_append]
  interval_cases j <;> simp

/-- A format-`XK` word under the mask of its top nibble. -/
theorem formatXK_row (op : Nibble) (x : RegIx) (k : Byte) : formatXK op x k &&& 0xF000 = op ++ 0#12 := by
  ext j hj
  simp only [formatXK, BitVec.getElem_and, BitVec.getElem_append]
  interval_cases j <;> simp

/-- A format-`XY` word under the mask of its top and bottom nibbles. -/
theorem formatXY_row (op : Nibble) (x y : RegIx) (n : Nibble) : formatXYN op x y n &&& 0xF00F = op ++ 0#8 ++ n := by
  ext j hj
  simp only [formatXYN, BitVec.getElem_and, BitVec.getElem_append]
  interval_cases j <;> simp

/-- A format-`XYN` word under the mask of its top nibble. -/
theorem formatXYN_row (op : Nibble) (x y : RegIx) (n : Nibble) : formatXYN op x y n &&& 0xF000 = op ++ 0#12 := by
  ext j hj
  simp only [formatXYN, BitVec.getElem_and, BitVec.getElem_append]
  interval_cases j <;> simp

/-- A format-`X` word under the mask of its top nibble and bottom byte. -/
theorem formatX_row (op : Nibble) (x : RegIx) (sub : Byte) : formatX op x sub &&& 0xF0FF = op ++ 0#4 ++ sub := by
  ext j hj
  simp only [formatX, BitVec.getElem_and, BitVec.getElem_append]
  interval_cases j <;> simp

theorem sysCall (n : Imm12) : Statement (.sysCall n) := formatA_row _ n
theorem clearScreen : Statement .clearScreen := rfl
theorem ret : Statement .ret := rfl
theorem jump (n : Imm12) : Statement (.jump n) := formatA_row _ n
theorem call (n : Imm12) : Statement (.call n) := formatA_row _ n
theorem skipEqImm (x : RegIx) (k : Byte) : Statement (.skipEqImm x k) := formatXK_row _ x k
theorem skipNeImm (x : RegIx) (k : Byte) : Statement (.skipNeImm x k) := formatXK_row _ x k
theorem skipEqReg (x : RegIx) (y : RegIx) : Statement (.skipEqReg x y) := formatXY_row _ x y _
theorem skipNeReg (x : RegIx) (y : RegIx) : Statement (.skipNeReg x y) := formatXY_row _ x y _
theorem loadImmediate (x : RegIx) (k : Byte) : Statement (.loadImmediate x k) := formatXK_row _ x k
theorem addImmediate (x : RegIx) (k : Byte) : Statement (.addImmediate x k) := formatXK_row _ x k
theorem move (x : RegIx) (y : RegIx) : Statement (.move x y) := formatXY_row _ x y _
theorem or (x : RegIx) (y : RegIx) : Statement (.or x y) := formatXY_row _ x y _
theorem and (x : RegIx) (y : RegIx) : Statement (.and x y) := formatXY_row _ x y _
theorem xor (x : RegIx) (y : RegIx) : Statement (.xor x y) := formatXY_row _ x y _
theorem add (x : RegIx) (y : RegIx) : Statement (.add x y) := formatXY_row _ x y _
theorem sub (x : RegIx) (y : RegIx) : Statement (.sub x y) := formatXY_row _ x y _
theorem shiftRight (x : RegIx) (y : RegIx) : Statement (.shiftRight x y) := formatXY_row _ x y _
theorem subReverse (x : RegIx) (y : RegIx) : Statement (.subReverse x y) := formatXY_row _ x y _
theorem shiftLeft (x : RegIx) (y : RegIx) : Statement (.shiftLeft x y) := formatXY_row _ x y _
theorem loadIndex (n : Imm12) : Statement (.loadIndex n) := formatA_row _ n
theorem jumpOffset (n : Imm12) : Statement (.jumpOffset n) := formatA_row _ n
theorem random (x : RegIx) (k : Byte) : Statement (.random x k) := formatXK_row _ x k
theorem draw (x : RegIx) (y : RegIx) (c : Nibble) : Statement (.draw x y c) := formatXYN_row _ x y c
theorem skipKeyDown (x : RegIx) : Statement (.skipKeyDown x) := formatX_row _ x _
theorem skipKeyUp (x : RegIx) : Statement (.skipKeyUp x) := formatX_row _ x _
theorem readDelay (x : RegIx) : Statement (.readDelay x) := formatX_row _ x _
theorem setDelay (x : RegIx) : Statement (.setDelay x) := formatX_row _ x _
theorem setSound (x : RegIx) : Statement (.setSound x) := formatX_row _ x _
theorem waitKey (x : RegIx) : Statement (.waitKey x) := formatX_row _ x _
theorem addIndex (x : RegIx) : Statement (.addIndex x) := formatX_row _ x _
theorem fontAddr (x : RegIx) : Statement (.fontAddr x) := formatX_row _ x _
theorem storeBcd (x : RegIx) : Statement (.storeBcd x) := formatX_row _ x _
theorem storeRegs (x : RegIx) : Statement (.storeRegs x) := formatX_row _ x _
theorem loadRegs (x : RegIx) : Statement (.loadRegs x) := formatX_row _ x _

end Sys2Proof.Laws.OpcodeRow
end

