-- ==== Sys2Proof/Tests/Slice0.lean ====
section
/-! SUPPORT. The model's own tests. Expected results come from spec/: the vectors of spec/95_test_vectors.md are named by
their numbers, the decode words are written out from the patterns of spec/30_encoding.md R73 and R76. Then one witness for
each statement with hypotheses. -/

namespace Sys2Proof.Tests

open Sys2Proof Sys2Proof.Machine

/-- The state after one step of `s` made to fetch the word `w`; none if the step stops. -/
def after (w : Nat) (s : State) : Option State :=
  match step (s.withFetchWord 16 w) with
  | .next t => some t
  | .fault _ => none
  | .refused _ => none

/-- The state after one step that serves this request. -/
def served (r : Request) (s : State) : Option State :=
  match step (s.setPorts { s.ports with requests := [r] }) with
  | .next t => some t
  | .fault _ => none
  | .refused _ => none

/-- The reset state with two registers set. -/
def regs2 (x : RegIx) (a : Byte) (y : RegIx) (b : Byte) : State := (State.reset.setReg x a).setReg y b

/-- The reset state with the top two bytes of the call stack's first slots and a depth. -/
def withStack (sp : Fin 17) (a b : Word) : State :=
  { State.reset with sp := sp, stack := (State.reset.stack.set 0 a).set 1 b }

/-! ## Well-formedness: the one check, and an ill-formed term for each of its two values (R76, R78) -/

theorem test_wf_refuses_sysCall_0E0 : Instr.wellFormed (.sysCall 0x0E0) = false := by decide
theorem test_wf_refuses_sysCall_0EE : Instr.wellFormed (.sysCall 0x0EE) = false := by decide
theorem test_wf_accepts_sysCall_0E1 : Instr.wellFormed (.sysCall 0x0E1) = true := by decide

/-! ## Decoding: a word for every constructor, written out from its pattern, and refused neighbours (R73, R76, 95 §2.1) -/

theorem test_decode_control :
    decode 0b0000_0001_1110_0000 = .shape (.sysCall 0x1E0) ∧ decode 0b0000_0000_1110_0000 = .shape .clearScreen ∧
      decode 0b0000_0000_1110_1110 = .shape .ret ∧ decode 0b0001_0010_0010_1000 = .shape (.jump 0x228) ∧
      decode 0b0010_1010_1011_1100 = .shape (.call 0xABC) ∧ decode 0b1011_0001_0010_0011 = .shape (.jumpOffset 0x123) := by
  decide

theorem test_decode_skips :
    decode 0b0011_1010_0111_1111 = .shape (.skipEqImm 0xA 0x7F) ∧ decode 0b0100_0000_0000_0001 = .shape (.skipNeImm 0x0 0x01) ∧
      decode 0b0101_1010_1011_0000 = .shape (.skipEqReg 0xA 0xB) ∧ decode 0b1001_1010_1011_0000 = .shape (.skipNeReg 0xA 0xB) ∧
      decode 0b1110_0001_1001_1110 = .shape (.skipKeyDown 0x1) ∧ decode 0b1110_0001_1010_0001 = .shape (.skipKeyUp 0x1) := by
  decide

theorem test_decode_loads_and_logic :
    decode 0b0110_1010_0000_0010 = .shape (.loadImmediate 0xA 0x02) ∧ decode 0b0111_1111_1111_1111 = .shape (.addImmediate 0xF 0xFF) ∧
      decode 0b1000_1010_1011_0000 = .shape (.move 0xA 0xB) ∧ decode 0b1000_1010_1011_0001 = .shape (.or 0xA 0xB) ∧
      decode 0b1000_1010_1011_0010 = .shape (.and 0xA 0xB) ∧ decode 0b1000_1010_1011_0011 = .shape (.xor 0xA 0xB) ∧
      decode 0b1100_0001_1111_1111 = .shape (.random 0x1 0xFF) := by
  decide

theorem test_decode_alu :
    decode 0b1000_1010_1011_0100 = .shape (.add 0xA 0xB) ∧ decode 0b1000_1010_1011_0101 = .shape (.sub 0xA 0xB) ∧
      decode 0b1000_1010_1011_0110 = .shape (.shiftRight 0xA 0xB) ∧ decode 0b1000_1010_1011_0111 = .shape (.subReverse 0xA 0xB) ∧
      decode 0b1000_1010_1011_1110 = .shape (.shiftLeft 0xA 0xB) := by
  decide

theorem test_decode_index_and_memory :
    decode 0b1010_0001_0010_0011 = .shape (.loadIndex 0x123) ∧ decode 0b1111_0001_0001_1110 = .shape (.addIndex 0x1) ∧
      decode 0b1111_0001_0010_1001 = .shape (.fontAddr 0x1) ∧ decode 0b1111_0001_0011_0011 = .shape (.storeBcd 0x1) ∧
      decode 0b1111_0001_0101_0101 = .shape (.storeRegs 0x1) ∧ decode 0b1111_0001_0110_0101 = .shape (.loadRegs 0x1) := by
  decide

theorem test_decode_display_input_timers :
    decode 0b1101_0001_0010_0101 = .shape (.draw 0x1 0x2 0x5) ∧ decode 0b1111_0001_0000_0111 = .shape (.readDelay 0x1) ∧
      decode 0b1111_0001_0000_1010 = .shape (.waitKey 0x1) ∧ decode 0b1111_0001_0001_0101 = .shape (.setDelay 0x1) ∧
      decode 0b1111_0001_0001_1000 = .shape (.setSound 0x1) := by
  decide

theorem test_decode_neighbours_of_literals :
    decode 0x00DF = .shape (.sysCall 0x0DF) ∧ decode 0x00E1 = .shape (.sysCall 0x0E1) ∧ decode 0x00ED = .shape (.sysCall 0x0ED) ∧
      decode 0x00EF = .shape (.sysCall 0x0EF) ∧ decode 0x0FFF = .shape (.sysCall 0xFFF) := by
  decide

theorem test_decode_refuses_5_8_9 :
    decode 0x5AB1 = .invalid 0x5AB1 ∧ decode 0x5ABF = .invalid 0x5ABF ∧ decode 0x8AB8 = .invalid 0x8AB8 ∧
      decode 0x8ABD = .invalid 0x8ABD ∧ decode 0x8ABF = .invalid 0x8ABF ∧ decode 0x9AB1 = .invalid 0x9AB1 := by
  decide

theorem test_decode_refuses_E :
    decode 0xE19D = .invalid 0xE19D ∧ decode 0xE19F = .invalid 0xE19F ∧ decode 0xE1A0 = .invalid 0xE1A0 ∧
      decode 0xE1A2 = .invalid 0xE1A2 := by
  decide

theorem test_decode_refuses_F :
    decode 0xF100 = .invalid 0xF100 ∧ decode 0xF106 = .invalid 0xF106 ∧ decode 0xF108 = .invalid 0xF108 ∧
      decode 0xF116 = .invalid 0xF116 ∧ decode 0xF154 = .invalid 0xF154 ∧ decode 0xF166 = .invalid 0xF166 ∧
      decode 0xFFFF = .invalid 0xFFFF := by
  decide

theorem test_decodeBytes_is_big_endian_and_gives_the_rest :
    decodeBytes [0x60#8, 0x05#8, 0x61#8] = .ok (.loadImmediate 0x0#4 0x05#8, [0x61#8]) := by
  rw [decodeBytes, show decode (wordOfBytes 0x60#8 0x05#8) = .shape (.loadImmediate 0x0#4 0x05#8) by decide]

theorem test_decodeBytes_refuses :
    decodeBytes [0x60#8] = .error .truncated ∧ decodeBytes [0x5A#8, 0xB1#8] = .error (.invalid 0x5AB1#16) :=
  ⟨rfl, by rw [decodeBytes, show decode (wordOfBytes 0x5A#8 0xB1#8) = .invalid 0x5AB1#16 by decide]⟩

theorem test_decodeTableWord : decodeTableWord 16 0x8014 = some (.add 0 1) ∧ decodeTableWord 16 0x8AB8 = none := by decide

theorem test_encode : encode (.add 0 1) = 0x8014 ∧ encode (.draw 1 2 3) = 0xD123 ∧ encode (.waitKey 3) = 0xF30A := by decide

/-! ## Control transfer (95 §2.2) -/

theorem test_sysCall_T16 : (after 0x0000 State.reset).map (fun t => (t.run, t.pc)) = some (.halted .unsupported, 0x200) := by decide
theorem test_return_T12 : (after 0x00EE (withStack 2 0x202 0x456)).map (fun t => (t.pc, t.sp, t.stack[1])) = some (0x456, 1, 0x456) := by decide
theorem test_return_T11 : (after 0x00EE State.reset).map (fun t => (t.run, t.pc, t.sp)) = some (.halted .stackUnderflow, 0x200, 0) := by decide
theorem test_jump_T1 : (after 0x1228 State.reset).map (·.pc) = some 0x228 := by decide
theorem test_call_T7 : (after 0x2200 ((withStack 3 0 0).setPc 0xFFE)).map (fun t => (t.stack[3], t.sp, t.pc)) = some (0x1000, 4, 0x200) := by decide
theorem test_call_T8 : (after 0x2300 (withStack 16 0 0)).map (fun t => (t.run, t.sp, t.pc)) = some (.halted .stackOverflow, 16, 0x200) := by decide
theorem test_jumpOffset_T14 : (after 0xBFFF (State.reset.setReg 0 0xFF)).map (·.pc) = some 0x10FE := by decide
theorem test_jumpOffset_T15 : (after 0xB300 (State.reset.setReg 3 0x55)).map (·.pc) = some 0x300 := by decide

/-! ## Skips (95 §2.3) -/

theorem test_skipEqImm_S1 : (after 0x332A (State.reset.setReg 3 0x2A)).map (·.pc) = some 0x204 := by decide
theorem test_skipEqImm_S18 : (after 0x332A ((State.reset.setReg 3 0x2A).setPc 0xFFE)).map (·.pc) = some 0x1002 := by decide
theorem test_skipNeImm_S3 : (after 0x432A (State.reset.setReg 3 0x2A)).map (·.pc) = some 0x202 := by decide
theorem test_skipNeImm_S4 : (after 0x432A (State.reset.setReg 3 0x2B)).map (·.pc) = some 0x204 := by decide
theorem test_skipEqReg_S6 : (after 0x5120 (regs2 1 7 2 7)).map (·.pc) = some 0x204 := by decide
theorem test_skipEqReg_S7 : (after 0x5120 (regs2 1 7 2 8)).map (·.pc) = some 0x202 := by decide
theorem test_skipNeReg_S9 : (after 0x9120 (regs2 1 7 2 8)).map (·.pc) = some 0x204 := by decide
theorem test_skipNeReg_S11 : (after 0x9110 (regs2 1 7 2 8)).map (·.pc) = some 0x202 := by decide

/-- The reset state with `V0 = k` and one keypad answer ready. -/
def withKeyAnswer (k : Byte) (b : Bool) : State :=
  (State.reset.setReg 0 k).setPorts { Ports.reset with keyDown := [b] }

theorem test_skipKeyDown_S12 : (after 0xE09E (withKeyAnswer 5 true)).map (fun t => (t.pc, t.ports.calls)) = some (0x204, [.keyDown 5]) := by decide
theorem test_skipKeyDown_S16 : (after 0xE09E (withKeyAnswer 0x15 false)).map (fun t => (t.pc, t.ports.calls)) = some (0x202, [.keyDown 0x15]) := by decide
theorem test_skipKeyUp_S14 : (after 0xE0A1 (withKeyAnswer 5 true)).map (·.pc) = some 0x202 := by decide
theorem test_skipKeyUp_S15 : (after 0xE0A1 (withKeyAnswer 5 false)).map (·.pc) = some 0x204 := by decide

/-! ## Loads and ALU (95 §2.4) -/

/-- `V1`, `V2` and `VF` after one step from a state with `V1`, `V2` given and `VF = AA`. -/
def alu (w : Nat) (a b : Byte) : Option (Byte × Byte × Byte) :=
  (after w ((regs2 1 a 2 b).setReg 0xF 0xAA)).map fun t => (t.reg 1, t.reg 2, t.reg 0xF)

/-- `VF` and `V2` after one step from a state with these given. -/
def aluVf (w : Nat) (f b : Byte) : Option (Byte × Byte) :=
  (after w (regs2 0xF f 2 b)).map fun t => (t.reg 0xF, t.reg 2)

theorem test_loadImmediate_A1 : (after 0x6A02 State.reset).map (fun t => (t.reg 0xA, t.pc)) = some (0x02, 0x202) := by decide
theorem test_addImmediate_A3 : (after 0x7102 (regs2 1 0xFF 0xF 0xAA)).map (fun t => (t.reg 1, t.reg 0xF)) = some (0x01, 0xAA) := by decide
theorem test_addImmediate_A7 : (after 0x7F03 (State.reset.setReg 0xF 0xFE)).map (·.reg 0xF) = some 0x01 := by decide
theorem test_move : alu 0x8120 0xF0 0x3C = some (0x3C, 0x3C, 0xAA) := by decide
theorem test_or : alu 0x8121 0xF0 0x3C = some (0xFC, 0x3C, 0xAA) := by decide
theorem test_and : alu 0x8122 0xF0 0x3C = some (0x30, 0x3C, 0xAA) := by decide
theorem test_xor : alu 0x8123 0xF0 0x3C = some (0xCC, 0x3C, 0xAA) := by decide
theorem test_add : alu 0x8124 0xFF 0xFF = some (0xFE, 0xFF, 0x01) := by decide
theorem test_add_into_vf_8F24 : aluVf 0x8F24 0xF0 0x20 = some (0x01, 0x20) := by decide
theorem test_sub : alu 0x8125 0x03 0x05 = some (0xFE, 0x05, 0x00) := by decide
theorem test_sub_from_vf_82F5 : aluVf 0x82F5 0x01 0x00 = some (0x00, 0xFF) := by decide
theorem test_shiftRight : alu 0x8126 0x81 0x55 = some (0x40, 0x55, 0x01) := by decide
theorem test_shiftRight_vf_8F26 : aluVf 0x8F26 0x03 0x77 = some (0x01, 0x77) := by decide
theorem test_subReverse : alu 0x8127 0x05 0x03 = some (0xFE, 0x03, 0x00) := by decide
theorem test_subReverse_vf_82F7 : aluVf 0x82F7 0x05 0x03 = some (0x01, 0x02) := by decide
theorem test_shiftLeft : alu 0x812E 0x81 0x55 = some (0x02, 0x55, 0x01) := by decide
theorem test_shiftLeft_vf_8F2E : aluVf 0x8F2E 0x41 0x77 = some (0x00, 0x77) := by decide
theorem test_random_A8 :
    (after 0xC30F (State.reset.setPorts { Ports.reset with randByte := [0xB7] })).map (·.reg 3) = some 0x07 := by decide
theorem test_random_A9 : (after 0xC300 (State.reset.setPorts { Ports.reset with randByte := [0x5A, 0x11] })).map
    (fun t => (t.reg 3, t.ports.randByte)) = some (0x00, [0x11]) := by decide

/-! ## Index register and memory (95 §2.5) -/

/-- The reset state with `I` and one register given. -/
def withI (i : Word) (x : RegIx) (b : Byte) : State := (State.reset.setI i).setReg x b

/-- The reset state with `I = 0x400` and the bytes `11 22 33` there. -/
def withBytes : State := (State.reset.setI 0x400).setMem (Memory.putAll [] 0x400 [0x11, 0x22, 0x33])

theorem test_loadIndex_M2 : (after 0xAFFF State.reset).map (·.i) = some 0xFFF := by decide
theorem test_addIndex_M5 : (after 0xF21E (withI 0xFFFF 2 0x02)).map (·.i) = some 0x0001 := by decide
theorem test_addIndex_M4 : (after 0xF21E ((withI 0x0FFF 2 0x01).setReg 0xF 0xAA)).map (fun t => (t.i, t.reg 0xF)) = some (0x1000, 0xAA) := by decide
theorem test_fontAddr_M8 : (after 0xF429 (withI 0 4 0x0A)).map (·.i) = some 0x0082 := by decide
theorem test_fontAddr_M11 : (after 0xF429 (withI 0 4 0xFF)).map (·.i) = some 0x054B := by decide
theorem test_storeBcd_M14 : (after 0xF533 (withI 0xFFD 5 0xFF)).map (fun t => (t.byte 0xFFD, t.byte 0xFFE, t.byte 0xFFF)) = some (2, 5, 5) := by decide
theorem test_storeBcd_M15 : (after 0xF533 (withI 0xFFE 5 0xFF)).map (fun t => (t.run, t.byte 0xFFE, t.pc)) = some (.halted .addressOutOfRange, 0, 0x200) := by decide
theorem test_storeRegs_M16 : (after 0xF255 (((withI 0x400 0 0x11).setReg 1 0x22).setReg 3 0x44)).map
    (fun t => ([t.byte 0x400, t.byte 0x401, t.byte 0x402, t.byte 0x403], t.i)) = some ([0x11, 0x22, 0, 0], 0x400) := by decide
theorem test_storeRegs_M20 : (after 0xFF55 (withI 0xFF1 0 0x11)).map (fun t => (t.run, t.byte 0xFF1)) = some (.halted .addressOutOfRange, 0) := by decide
theorem test_loadRegs_M21 : (after 0xF265 (withBytes.setReg 3 0x77)).map
    (fun t => ([t.reg 0, t.reg 1, t.reg 2, t.reg 3], t.i)) = some ([0x11, 0x22, 0x33, 0x77], 0x400) := by decide
theorem test_loadRegs_M25 : (after 0xF065 (withI 0x1234 0 0x11)).map (fun t => (t.run, t.reg 0)) = some (.halted .addressOutOfRange, 0x11) := by decide

/-! ## Display, key wait, timers (95 §2.6) -/

theorem test_clearScreen_K1 : (after 0x00E0 State.reset).map (fun t => (t.ports.calls, t.pc)) = some ([.displayClear], 0x202) := by decide
theorem test_draw_K4 : (after 0xDF21 ((((withI 0x400 0xF 7).setReg 2 5).setMem withBytes.mem).setPorts
    { Ports.reset with collided := [true] })).map (fun t => (t.ports.calls, t.reg 0xF)) = some ([.displayDraw 7 5 [0x11]], 1) := by decide
theorem test_draw_K6 : (after 0xD12F (withI 0xFF2 0xF 0xAA)).map (fun t => (t.run, t.ports.calls, t.reg 0xF)) =
    some (.halted .addressOutOfRange, [], 0xAA) := by decide
theorem test_readDelay_K9 : (after 0xF307 (State.reset.setDt 0x3C)).map (·.reg 3) = some 0x3C := by decide
theorem test_setDelay_K10 : (after 0xF315 (State.reset.setReg 3 0x3C)).map (fun t => (t.dt, t.st)) = some (0x3C, 0) := by decide
theorem test_setSound_K11 : (after 0xF318 (State.reset.setReg 3 0x05)).map (fun t => (t.dt, t.st)) = some (0, 0x05) := by decide
theorem test_waitKey_K16 : (after 0xF30A State.reset).map (fun t => (t.run, t.pc)) = some (.awaitingKey 3, 0x200) := by decide
theorem test_timerTick_K12 : (served .timerTick ((State.reset.setDt 2).setSt 1)).map (fun t => (t.dt, t.st)) = some (1, 0) := by decide
theorem test_timerTick_K14 : (served .timerTick State.reset).map (fun t => (t.dt, t.st)) = some (0, 0) := by decide
theorem test_resume_K19 : (served (.keyEvent 0xB) (State.reset.setRun (.awaitingKey 3))).map (fun t => (t.reg 3, t.pc, t.run)) =
    some (0x0B, 0x202, .running) := by decide
theorem test_cycle_while_waiting_K17 : (served .cycle (State.reset.setRun (.awaitingKey 3))).map (fun t => (t.run, t.pc)) =
    some (.awaitingKey 3, 0x200) := by decide

/-! ## Fetch, memory and boot (95 §2.7) -/

theorem test_fetch_F15 : (after 0x6A02 (State.reset.setPc 0xFFE)).map (fun t => (t.reg 0xA, t.pc)) = some (0x02, 0x1000) := by decide
theorem test_fetch_F16 : (served .cycle (State.reset.setPc 0xFFF)).map (fun t => (t.run, t.pc)) = some (.halted .addressOutOfRange, 0xFFF) := by decide
theorem test_invalid_F17 : (after 0x5AB1 State.reset).map (fun t => (t.run, t.pc)) = some (.halted (.invalidOpcode 0x5AB1), 0x200) := by decide
theorem test_memCopy_F11_F12 :
    (memCopy [] 0xFFE [1, 2]).toOption = some [(0xFFE, 1), (0xFFF, 2)] ∧ (memCopy [] 0xFFE [1, 2, 3]).toOption = none := by decide
theorem test_memReadRange_F7_F8 :
    (memReadRange [] 0xFFC 0x1001).toOption = none ∧ (memReadRange [] 0x1388 0x1388).toOption = some [] := by decide
theorem test_put_of_the_fill_removes_the_entry : Memory.put [(1, 5), (2, 6)] 1 0 = [(2, 6)] := by decide
theorem test_construct : (served (.construct (Vector.replicate 80 0x11) [0x60, 0x05]) State.reset).map
    (fun t => (t.byte 0x09F, t.byte 0x0A0, t.byte 0x200, t.byte 0x201)) = some (0x11, 0, 0x60, 0x05) := by decide
theorem test_diag_only_when_halted : State.reset.diag = none ∧ (State.reset.raise .unsupported).status = (.halted .unsupported, 3, 0) := by
  decide

/-! ## Witnesses: concrete states and operands that meet a statement's hypotheses -/

theorem witness_DecodeOfEncodeIsTheInstruction : Instr.wellFormed (.sysCall 0xFFF) = true := by decide
theorem witness_EncodeOfDecodeIsTheWord : decode 0x0FFF = .shape (.sysCall 0xFFF) := by decide
theorem witness_InvalidWordsAreThoseOfTheTable : decode 0x8AB8 = .invalid 0x8AB8 := by decide
theorem witness_WordReadIsBigEndian : (4095 : Nat) ≤ 4095 ∧ (4094 : Nat) < 4095 := by decide
theorem witness_ByteWriteThenRead : (4096 : Nat) ≤ 4096 ∧ (4095 : Nat) < 4096 := by decide
theorem witness_BlockWriteThenRangeRead :
    (0 < ([1, 2, 3] : List Byte).length ∧ 4096 < 0xFFE + ([1, 2, 3] : List Byte).length) ∧
      (0xFFE + ([1, 2] : List Byte).length ≤ 4096) ∧ ([] : List Byte).length = 0 := by decide
theorem witness_CanonicalMemoriesThatReadAlikeAreEqual :
    ∃ m m' : Memory, m.wf ∧ m'.wf ∧ m ≠ [] ∧ ∀ a, m.get a = m'.get a :=
  ⟨[(5, 1), (4095, 2)], Memory.put [(5, 1)] 4095 2, by decide, by decide, by decide, fun _ => rfl⟩
theorem witness_StoreIsSeenByTheNextFetch :
    1 ≤ (1 : RegIx).toNat ∧ (State.reset.setI 0x202).i.toNat + (1 : RegIx).toNat ≤ 4095 ∧
      (State.reset.setI 0x202).i.toNat = (State.reset.setI 0x202).pc.toNat + 2 := by decide
theorem witness_SysCallRaisesUnsupported : (0x0E1 : Imm12) ≠ 0x0E0 ∧ (0x0E1 : Imm12) ≠ 0x0EE := by decide
theorem witness_ReturnPopsIntoPc : 0 < (withStack 1 0x202 0).sp.val := by decide
theorem witness_CallPushesTheNextAddress : (withStack 15 0 0).sp.val < 16 := by decide
theorem witness_CallThenReturnComesBack : State.reset.sp.val < 16 := by decide
theorem witness_AddResult : (0xE : RegIx) ≠ 15 := by decide
theorem witness_SubtractResults : (0x0 : RegIx) ≠ 15 := by decide
theorem witness_ShiftResults : (0x1 : RegIx) ≠ 15 := by decide
theorem witness_StoreBcdStoresDigits : (State.reset.setI 0xFFD).i.toNat + 2 ≤ 4095 := by decide
theorem witness_StoreRegsStoresTheRange : (State.reset.setI 0xFF0).i.toNat + (0xF : RegIx).toNat ≤ 4095 ∧ (0xF : RegIx).toNat ≤ (0xF : RegIx).toNat := by decide
theorem witness_LoadRegsLoadsTheRange : (State.reset.setI 0xFFF).i.toNat + (0x0 : RegIx).toNat ≤ 4095 ∧ (0x0 : RegIx).toNat ≤ (0x0 : RegIx).toNat := by decide
theorem witness_DrawResult : (0 : Nibble).toNat = 0 ∧ (State.reset.setI 0xFF1).i.toNat + (0xF : Nibble).toNat ≤ 4096 := by decide

/-- A machine at an `F30A` with a cycle and then a key event asked for. -/
def waitingSoon : State :=
  (State.reset.placeWord 0xF30A).setPorts { Ports.reset with requests := [.cycle, .keyEvent 0xB] }

theorem witness_KeyEventEndsTheWait : waitingSoon.run = .running ∧ waitingSoon.At (.waitKey 3) ∧
    waitingSoon.ports.requests = .cycle :: .keyEvent 0xB :: [] := ⟨by decide, ⟨by decide, by decide⟩, by decide⟩
theorem witness_StepRunsTheDecodedInstruction :
    (State.reset.placeWord 0x6A02).run = .running ∧ (State.reset.placeWord 0x6A02).nextRequest = .cycle ∧
      (State.reset.placeWord 0x6A02).At (.loadImmediate 0xA 0x02) ∧ (State.reset.placeWord 0x6A02).ports.requests = [] :=
  ⟨by decide, by decide, ⟨by decide, by decide⟩, by decide⟩
theorem witness_FetchAndDecodeErrorsHalt_fetch :
    (State.reset.setPc 0xFFF).run = .running ∧ (State.reset.setPc 0xFFF).nextRequest = .cycle ∧
      4094 < (State.reset.setPc 0xFFF).pc.toNat := by decide
theorem witness_FetchAndDecodeErrorsHalt_decode :
    ((State.reset.setPc 0xFFE).placeWord 0x5AB1).run = .running ∧ ((State.reset.setPc 0xFFE).placeWord 0x5AB1).nextRequest = .cycle ∧
      ((State.reset.setPc 0xFFE).placeWord 0x5AB1).pc.toNat ≤ 4094 ∧
      decode ((State.reset.setPc 0xFFE).placeWord 0x5AB1).wordAtPc = .invalid 0x5AB1 := by decide
theorem witness_ErrorsAreThoseOfTheTable : State.reset.run = .running ∧ raisedBy .ret State.reset = some .stackUnderflow ∧
    raisedBy (.storeBcd 0) (State.reset.setI 0xFFE) = some .addressOutOfRange ∧ raisedBy (.storeBcd 0) (State.reset.setI 0xFFD) = none ∧
    raisedBy (.draw 0 0 0) (State.reset.setI 0xFFFF) = none := by decide
theorem witness_InstructionsChangeOnlyWhatTheyName : ∃ t, exec (.storeRegs 0) State.reset = .next t := ⟨_, rfl⟩
theorem witness_OnlySixInstructionsWriteTheFlag :
    (∃ t, exec (.add 1 2) State.reset = .next t) ∧ raisedBy (.add 1 2) State.reset = none ∧ writesFlag (.add 1 2) = true ∧
      (∃ t, exec (.or 1 2) State.reset = .next t) ∧ raisedBy (.or 1 2) State.reset = none ∧ writesFlag (.or 1 2) = false ∧
      namesReg (.or 1 2) 15 = false := ⟨⟨_, rfl⟩, rfl, rfl, ⟨_, rfl⟩, rfl, rfl, rfl⟩
theorem witness_ProgramCounterClasses :
    (∃ t, exec .ret State.reset = .next t) ∧ raisedBy .ret State.reset = some .stackUnderflow ∧
      (∃ t, exec (.skipEqImm 0 0) State.reset = .next t) ∧ raisedBy (.skipEqImm 0 0) State.reset = none ∧
      pcAdvance (.skipEqImm 0 0) = some [2, 4] := ⟨⟨_, rfl⟩, rfl, ⟨_, rfl⟩, rfl, rfl⟩
/-- A state that waits for a key after other things have happened: another `pc`, the delay timer running. -/
def waiting (r : Request) : State :=
  (((State.reset.setRun (.awaitingKey 3)).setPc 0xFFE).setDt 5).setPorts { Ports.reset with requests := [r] }

theorem witness_KeyEventResumesEveryWait :
    (waiting (.keyEvent 0xB)).run = .awaitingKey 3 ∧ (waiting (.keyEvent 0xB)).ports.requests = .keyEvent 0xB :: [] := ⟨rfl, rfl⟩
theorem witness_OnlyTimersMoveWhileWaitingOrHalted_waiting :
    (waiting .cycle).run = .awaitingKey 3 ∧ (waiting .cycle).nextRequest = .cycle ∧
      (waiting .timerTick).run = .awaitingKey 3 ∧ (waiting .timerTick).nextRequest = .timerTick := ⟨rfl, rfl, rfl, rfl⟩
theorem witness_OnlyTimersMoveWhileWaitingOrHalted_halted :
    ((waiting (.keyEvent 0xB)).raise .unsupported).run = .halted .unsupported ∧
      ((waiting (.keyEvent 0xB)).raise .unsupported).nextRequest = .keyEvent 0xB := ⟨rfl, rfl⟩
theorem witness_EarlyKeyEventIsDropped : ∃ s : State, s.run = .running ∧ s.ports.requests = .keyEvent 0xB :: [] :=
  ⟨State.reset.setPorts { Ports.reset with requests := [.keyEvent 0xB] }, rfl, rfl⟩
theorem witness_TimerTickCountsDown : ∃ s : State, s.ports.requests = .timerTick :: [] ∧ s.dt = 1 ∧ s.st = 0 :=
  ⟨(State.reset.setDt 1).setPorts { Ports.reset with requests := [.timerTick] }, rfl, rfl, rfl⟩
theorem witness_DelayTimerOnlyRunsDown : ∃ s t : State, step s = .next t ∧ s.dt.toNat < t.dt.toNat :=
  ⟨(State.reset.setReg 3 0x3C).placeWord 0xF315, _, rfl, by decide⟩
theorem witness_StepsServeRequestsInOrder_none_listed : State.reset.ports.requests = [] ∧ ∃ t, step State.reset = .next t :=
  ⟨rfl, _, rfl⟩
theorem witness_StepsServeRequestsInOrder : ∃ s t : State, s.ports.requests = [.timerTick, .cycle] ∧ step s = .next t :=
  ⟨State.reset.setPorts { Ports.reset with requests := [.timerTick, .cycle] }, _, rfl, rfl⟩
theorem witness_EveryAnswerIsPossible : (0x07 : Byte) &&& ~~~(0x0F : Byte) = 0 ∧ raisedBy (.draw 1 2 0xF) (State.reset.setI 0xFF1) = none := by
  decide
theorem witness_ConstructionLoadsFontAndProgram :
    ∃ (program : List Byte) (s : State), s.ports.requests = .construct (Vector.replicate 80 0) program :: [] ∧ program.length ≤ 3584 :=
  ⟨List.replicate 3584 0, State.reset.setPorts { Ports.reset with requests := [.construct (Vector.replicate 80 0) (List.replicate 3584 0)] },
    rfl, by rw [List.length_replicate]⟩
theorem witness_ConstructionLoadsFontAndProgram_too_long :
    ∃ (program : List Byte) (s : State), s.ports.requests = .construct (Vector.replicate 80 0) program :: [] ∧ 3584 < program.length :=
  ⟨List.replicate 3585 0, State.reset.setPorts { Ports.reset with requests := [.construct (Vector.replicate 80 0) (List.replicate 3585 0)] },
    rfl, by rw [List.length_replicate]; exact Nat.lt_succ_self 3584⟩

/-- A state with a live stack entry that meets the invariants, at an instruction that runs. -/
def invState : State := (withStack 1 0x202 0).placeWord 0x00EE

theorem witness_EveryStepKeepsTheInvariants : invState.Inv ∧ ∃ t, step invState = .next t :=
  ⟨⟨by decide, fun j a hj ha => by
      obtain rfl : j = 0 := by have : invState.sp.val = 1 := rfl; omega
      have : invState.stack[0]? = some 0x202 := rfl
      obtain rfl : (0x202 : Word) = a := Option.some.inj (this.symm.trans ha)
      decide, (fun _ h => nomatch h), by decide⟩, _, rfl⟩
theorem witness_FixedPointsAreJumpsToThemselves :
    (State.reset.placeWord 0x1200).run = .running ∧ (State.reset.placeWord 0x1200).ports.requests = [] ∧
      (State.reset.placeWord 0x1200).At (.jump 0x200) ∧ (0x200 : Imm12).toNat = (State.reset.placeWord 0x1200).pc.toNat :=
  ⟨by decide, by decide, ⟨by decide, by decide⟩, by decide⟩

end Sys2Proof.Tests
end

section
/-! SUPPORT. The one-byte and two-byte accesses of memory (spec/20_memory.md R52, R53, R55). -/

namespace Sys2Proof.Machine

/-- The byte at the lower address is the more significant (R53). -/
theorem toNat_append_byte (hi lo : Byte) : (hi ++ lo : Word).toNat = hi.toNat * 256 + lo.toNat := by
  rw [BitVec.toNat_append, ← Nat.shiftLeft_add_eq_or_of_lt lo.isLt, Nat.shiftLeft_eq]

theorem memRead_ok {m : Memory} {a : Nat} (h : a < 4096) : memRead m a = .ok (m.get a) := if_pos h

theorem memRead_error {m : Memory} {a : Nat} (h : 4096 ≤ a) : memRead m a = .error .addressOutOfRange :=
  if_neg (Nat.not_lt.2 h)

/-- Settles O5: inside memory the word read is the concatenation of the two bytes, whose value is big-endian. -/
theorem wordReadIsBigEndian : Obligations.WordReadIsBigEndian := by
  intro m addr
  obtain ⟨hin, hread⟩ | ⟨hout, hread⟩ := memReadWord_cases m addr
  · exact ⟨fun h => by omega, fun _ => ⟨_, hread, toNat_append_byte _ _⟩⟩
  · exact ⟨fun _ => hread, fun h => by omega⟩

/-- Settles O6: inside memory the write answers `m.put addr b`, and `Memory.get_put` says what is read there afterwards. -/
theorem byteWriteThenRead : Obligations.ByteWriteThenRead := by
  intro m addr b
  refine ⟨fun hout => ⟨memRead_error hout, memWrite_error b hout⟩,
    fun hin => ⟨memRead_ok hin, m.put addr b, memWrite_ok b hin, ?_, ?_⟩⟩
  · rw [memRead_ok hin, Memory.get_put, if_pos rfl]
  · intro a ha
    rw [Memory.get_put, if_neg ha]

end Sys2Proof.Machine
end

section
/-! SUPPORT. The two jumps (spec/40_control_transfer.md R103, R105): their words, their next states, the frame of a write to
`pc`, and the targets as natural numbers. -/

namespace Sys2Proof.Machine

/-- A format-`A` word whose top nibble is not 0 is decoded by its top nibble alone (R75). -/
theorem decode_formatA {op : Nibble} (n : Imm12) (h : op ≠ 0#4) : decode (formatA op n) = decodeTopNibble (formatA op n) :=
  decode_of_not_literal (not_literal_of_op (by rwa [opField_formatA]))

theorem decode_jump (n : Imm12) : decode (formatA 0x1 n) = .shape (.jump n) := by
  rw [decode_formatA n (by decide)]
  simp [decodeTopNibble]

theorem decode_jumpOffset (n : Imm12) : decode (formatA 0xB n) = .shape (.jumpOffset n) := by
  rw [decode_formatA n (by decide)]
  simp [decodeTopNibble]

theorem exec_jump (n : Imm12) (s : State) : exec (.jump n) s = .next (s.setPc (zextImm n)) := rfl

theorem exec_jumpOffset (n : Imm12) (s : State) :
    exec (.jumpOffset n) s = .next (s.setPc (zextImm n + zextReg (s.reg 0))) := rfl

/-- A write to `pc` leaves every other part as it was. -/
theorem onlyChanges_setPc (s : State) (w : Word) : OnlyChanges [.pc] s (s.setPc w) := by
  intro p hp
  cases p with
  | pc => exact absurd List.mem_cons_self hp
  | answers => exact ⟨rfl, rfl, rfl, rfl⟩
  | _ => rfl

@[simp] theorem toNat_zextImm (n : Imm12) : (zextImm n).toNat = n.toNat :=
  BitVec.toNat_setWidth_of_le (by decide)

@[simp] theorem toNat_zextReg (b : Byte) : (zextReg b).toNat = b.toNat :=
  BitVec.toNat_setWidth_of_le (by decide)

/-- The sum is at most `0x0FFF + 0x00FF`, so it is not reduced modulo 65536 (R105). -/
theorem toNat_zextImm_add_zextReg (n : Imm12) (b : Byte) : (zextImm n + zextReg b).toNat = n.toNat + b.toNat := by
  have hn : n.toNat < 4096 := n.isLt
  have hb : b.toNat < 256 := b.isLt
  rw [BitVec.toNat_add, toNat_zextImm, toNat_zextReg, Nat.mod_eq_of_lt (by omega)]

/-- Settles O12: either word decodes to its jump, and either jump is one write to `pc`, of a target that is not reduced. -/
theorem jumpsSetPc : Obligations.JumpsSetPc := fun n s =>
  ⟨⟨decode_jump n, _, exec_jump n s, onlyChanges_setPc s _, toNat_zextImm n⟩,
    decode_jumpOffset n, _, exec_jumpOffset n s, onlyChanges_setPc s _, toNat_zextImm_add_zextReg n (s.reg 0)⟩

end Sys2Proof.Machine
end

section
/-! SUPPORT. The four skips that compare (spec/41_skip.md R110 to R113): their words, their next states, and the advance of
`State.skipIf` as natural numbers. -/

namespace Sys2Proof.Machine

/-- A format-`XK` word whose top nibble is not 0 is decoded by its top nibble alone (R75). -/
theorem decode_formatXK {op : Nibble} (x : RegIx) (k : Byte) (h : op ≠ 0#4) :
    decode (formatXK op x k) = decodeTopNibble (formatXK op x k) :=
  decode_of_not_literal (not_literal_of_op (by rwa [opField_formatXK]))

/-- A format-`XYN` word whose top nibble is not 0 is decoded by its top nibble alone (R75). -/
theorem decode_formatXYN {op : Nibble} (x y : RegIx) (n : Nibble) (h : op ≠ 0#4) :
    decode (formatXYN op x y n) = decodeTopNibble (formatXYN op x y n) :=
  decode_of_not_literal (not_literal_of_op (by rwa [opField_formatXYN]))

theorem decode_skipEqImm (x : RegIx) (k : Byte) : decode (formatXK 0x3 x k) = .shape (.skipEqImm x k) := by
  rw [decode_formatXK x k (by decide)]
  simp [decodeTopNibble]

theorem decode_skipNeImm (x : RegIx) (k : Byte) : decode (formatXK 0x4 x k) = .shape (.skipNeImm x k) := by
  rw [decode_formatXK x k (by decide)]
  simp [decodeTopNibble]

theorem decode_skipEqReg (x y : RegIx) : decode (formatXYN 0x5 x y 0x0) = .shape (.skipEqReg x y) := by
  rw [decode_formatXYN x y 0x0 (by decide)]
  simp [decodeTopNibble]

theorem decode_skipNeReg (x y : RegIx) : decode (formatXYN 0x9 x y 0x0) = .shape (.skipNeReg x y) := by
  rw [decode_formatXYN x y 0x0 (by decide)]
  simp [decodeTopNibble]

theorem exec_skipEqImm (x : RegIx) (k : Byte) (s : State) :
    exec (.skipEqImm x k) s = .next (s.skipIf (s.reg x == k)) := rfl

theorem exec_skipNeImm (x : RegIx) (k : Byte) (s : State) :
    exec (.skipNeImm x k) s = .next (s.skipIf (s.reg x != k)) := rfl

theorem exec_skipEqReg (x y : RegIx) (s : State) :
    exec (.skipEqReg x y) s = .next (s.skipIf (s.reg x == s.reg y)) := rfl

theorem exec_skipNeReg (x y : RegIx) (s : State) :
    exec (.skipNeReg x y) s = .next (s.skipIf (s.reg x != s.reg y)) := rfl

theorem onlyChanges_skipIf (s : State) (c : Bool) : OnlyChanges [.pc] s (s.skipIf c) := onlyChanges_setPc s _

/-- The advance of a skip whose condition bit says `P` (R109). -/
theorem advancesBy_skipIf {P : Prop} [Decidable P] {c : Bool} (s : State) (h : c = true ↔ P) :
    AdvancesBy (if P then 4 else 2) s (s.skipIf c) := by
  unfold AdvancesBy
  rw [State.skipIf_pc, BitVec.toNat_add]
  by_cases hP : P
  · rw [if_pos hP, if_pos (h.2 hP)]; rfl
  · rw [if_neg hP, if_neg (mt h.1 hP)]; rfl

/-- A skip on equality compares the unsigned values (R109). -/
theorem advancesBy_skipIf_beq (s : State) (a b : Byte) :
    AdvancesBy (if a.toNat = b.toNat then 4 else 2) s (s.skipIf (a == b)) :=
  advancesBy_skipIf s (beq_iff_eq.trans BitVec.toNat_inj.symm)

/-- A skip on difference compares the unsigned values (R109). -/
theorem advancesBy_skipIf_bne (s : State) (a b : Byte) :
    AdvancesBy (if a.toNat = b.toNat then 2 else 4) s (s.skipIf (a != b)) := by
  rw [← ite_not]
  exact advancesBy_skipIf s (bne_iff_ne.trans (not_congr BitVec.toNat_inj.symm))

/-- Settles O15: either word decodes to its skip, and either skip is one `State.skipIf` on `V[x]` against the immediate. -/
theorem immediateSkips : Obligations.ImmediateSkips := fun x k s =>
  ⟨⟨decode_skipEqImm x k, _, exec_skipEqImm x k s, onlyChanges_skipIf s _, advancesBy_skipIf_beq s _ k⟩,
    decode_skipNeImm x k, _, exec_skipNeImm x k s, onlyChanges_skipIf s _, advancesBy_skipIf_bne s _ k⟩

/-- Settles O16: either word decodes to its skip, and either skip is one `State.skipIf` on `V[x]` against `V[y]`. -/
theorem registerSkips : Obligations.RegisterSkips := fun x y s =>
  ⟨⟨decode_skipEqReg x y, _, exec_skipEqReg x y s, onlyChanges_skipIf s _, advancesBy_skipIf_beq s _ _⟩,
    decode_skipNeReg x y, _, exec_skipNeReg x y s, onlyChanges_skipIf s _, advancesBy_skipIf_bne s _ _⟩

end Sys2Proof.Machine
end

section
/-! SUPPORT. The loads, the flagless addition and the addition with carry (spec/42_load_alu.md R123 to R125, R129): their
words, their next states, the frame rules of the writes they are made of, and the sums as natural numbers. -/

namespace Sys2Proof.Machine

/-! ## The words -/

theorem decode_loadImmediate (x : RegIx) (k : Byte) : decode (formatXK 0x6 x k) = .shape (.loadImmediate x k) := by
  rw [decode_formatXK x k (by decide)]
  simp [decodeTopNibble]

theorem decode_addImmediate (x : RegIx) (k : Byte) : decode (formatXK 0x7 x k) = .shape (.addImmediate x k) := by
  rw [decode_formatXK x k (by decide)]
  simp [decodeTopNibble]

/-- A word of group 8 is decoded by its bottom nibble (R75). -/
theorem decode_group8 (x y : RegIx) (n : Nibble) :
    decode (formatXYN 0x8 x y n) = decodeGroup8 (formatXYN 0x8 x y n) := by
  rw [decode_formatXYN x y n (by decide)]
  simp [decodeTopNibble]

theorem decode_move (x y : RegIx) : decode (formatXYN 0x8 x y 0x0) = .shape (.move x y) := by
  rw [decode_group8]
  simp [decodeGroup8]

theorem decode_add (x y : RegIx) : decode (formatXYN 0x8 x y 0x4) = .shape (.add x y) := by
  rw [decode_group8]
  simp [decodeGroup8]

/-! ## The next states -/

theorem exec_loadImmediate (x : RegIx) (k : Byte) (s : State) :
    exec (.loadImmediate x k) s = .next (s.setReg x k).advance := rfl

theorem exec_addImmediate (x : RegIx) (k : Byte) (s : State) :
    exec (.addImmediate x k) s = .next (s.setReg x (sum8 (s.reg x) k)).advance := rfl

theorem exec_move (x y : RegIx) (s : State) : exec (.move x y) s = .next (s.setReg x (s.reg y)).advance := rfl

theorem exec_add (x y : RegIx) (s : State) :
    exec (.add x y) s = .next (s.writeResult x (sum8 (s.reg x) (s.reg y)) (carry (s.reg x) (s.reg y))).advance := rfl

/-! ## Frames of register writes -/

/-- A write to a register leaves every other part as it was. -/
theorem onlyChanges_setReg (s : State) (x : RegIx) (b : Byte) : OnlyChanges [.reg x] s (s.setReg x b) := by
  intro p hp
  cases p with
  | reg r =>
    have hr : r ≠ x := by simpa using hp
    show (s.setReg x b).reg r = s.reg r
    rw [State.reg_setReg, if_neg hr]
  | answers => exact ⟨rfl, rfl, rfl, rfl⟩
  | _ => rfl

theorem Part.Same.trans {s t u : State} {p : Part} (hst : p.Same s t) (htu : p.Same t u) : p.Same s u := by
  cases p with
  | answers =>
    obtain ⟨hc, hk, hr, ha⟩ := hst
    obtain ⟨hc', hk', hr', ha'⟩ := htu
    exact ⟨hc'.trans hc, hk'.trans hk, hr'.trans hr, ha'.trans ha⟩
  | _ => exact Eq.trans htu hst

/-- Frames compose: a second change within the parts already listed keeps the frame. -/
theorem OnlyChanges.trans {ps qs : List Part} {s t u : State} (hst : OnlyChanges ps s t) (htu : OnlyChanges qs t u)
    (hsub : qs ⊆ ps) : OnlyChanges ps s u := fun p hp =>
  (hst p hp).trans (htu p fun hq => hp (hsub hq))

theorem OnlyChanges.mono {ps qs : List Part} {s t : State} (h : OnlyChanges qs s t) (hsub : qs ⊆ ps) :
    OnlyChanges ps s t := fun p hp => h p fun hq => hp (hsub hq)

/-- The sequential advance (R122) adds `pc` to the parts that change. -/
theorem OnlyChanges.advance {ps : List Part} {s t : State} (h : OnlyChanges ps s t) :
    OnlyChanges (.pc :: ps) s t.advance :=
  (h.mono (List.subset_cons_self _ _)).trans (onlyChanges_setPc t _) (by simp)

/-- A result and its flag change the destination and `VF` alone (R120). -/
theorem onlyChanges_writeResult (s : State) (x : RegIx) (b : Byte) (f : Bool) :
    OnlyChanges [.reg x, .reg 15] s (s.writeResult x b f) :=
  ((onlyChanges_setReg s x b).mono (by simp)).trans (onlyChanges_setReg _ vf (flagByte f)) (by simp [vf])

/-- The sequential advance after writes that leave `pc` where it was (R122). -/
theorem advancesBy_advance {s t : State} (h : t.pc = s.pc) : AdvancesBy 2 s t.advance := by
  unfold AdvancesBy
  rw [State.advance_pc, BitVec.toNat_add, h]
  rfl

/-! ## The values -/

@[simp] theorem toNat_sum8 (a b : Byte) : (sum8 a b).toNat = (a.toNat + b.toNat) % 256 := BitVec.toNat_ofNat _ _

@[simp] theorem toNat_flagByte (f : Bool) : (flagByte f).toNat = if f = true then 1 else 0 := by
  cases f <;> rfl

theorem carry_eq_true_iff (a b : Byte) : carry a b = true ↔ 255 < a.toNat + b.toNat := decide_eq_true_iff

/-- The flag stays in `VF`, whatever the destination: it is written last (R120). -/
theorem State.reg_writeResult_vf (s : State) (x : RegIx) (b : Byte) (f : Bool) :
    (s.writeResult x b f).reg 15 = flagByte f :=
  (s.reg_writeResult x 15 b f).trans (if_pos rfl)

/-- A destination other than `VF` holds the result. -/
theorem State.reg_writeResult_dest (s : State) {x : RegIx} (b : Byte) (f : Bool) (h : x ≠ 15) :
    (s.writeResult x b f).reg x = b :=
  (s.reg_writeResult x x b f).trans ((if_neg h).trans (if_pos rfl))

/-- All that an instruction of one register write and the advance does (R122). -/
theorem setReg_advance_effect (s : State) (x : RegIx) (b : Byte) :
    OnlyChanges [.pc, .reg x] s (s.setReg x b).advance ∧ AdvancesBy 2 s (s.setReg x b).advance ∧
      (s.setReg x b).advance.reg x = b := by
  refine ⟨(onlyChanges_setReg s x b).advance, advancesBy_advance rfl, ?_⟩
  rw [State.advance_reg, State.reg_setReg, if_pos rfl]

/-! ## The statements -/

/-- Settles O18: each word decodes to its shape, and each of the three is one `State.setReg` of `V[x]` and the advance. -/
theorem loadAddMoveResults : Obligations.LoadAddMoveResults := by
  intro x y k s
  obtain ⟨hframe, hpc, hsum⟩ := setReg_advance_effect s x (sum8 (s.reg x) k)
  exact ⟨⟨decode_loadImmediate x k, _, exec_loadImmediate x k s, setReg_advance_effect s x k⟩,
    ⟨decode_addImmediate x k, _, exec_addImmediate x k s, hframe, hpc, by rw [hsum, toNat_sum8]⟩,
    decode_move x y, _, exec_move x y s, setReg_advance_effect s x (s.reg y)⟩

/-- Settles O20: the word decodes to `Add`, which is one `State.writeResult` of the sum and the carry and the advance. -/
theorem addResult : Obligations.AddResult := by
  intro x y s
  refine ⟨decode_add x y, _, exec_add x y s, (onlyChanges_writeResult s x _ _).advance, advancesBy_advance rfl, ?_,
    fun hx => ?_⟩
  · simp only [State.advance_reg, State.reg_writeResult_vf, toNat_flagByte, carry_eq_true_iff]
  · rw [State.advance_reg, State.reg_writeResult_dest s _ _ hx, toNat_sum8]

end Sys2Proof.Machine
end

section
/-! SUPPORT. The load of the index register (spec/43_index_memory.md R140): its word, its next state, and the frame rule of a
write to `I`. -/

namespace Sys2Proof.Machine

theorem decode_loadIndex (n : Imm12) : decode (formatA 0xA n) = .shape (.loadIndex n) := by
  rw [decode_formatA n (by decide)]
  simp [decodeTopNibble]

theorem exec_loadIndex (n : Imm12) (s : State) : exec (.loadIndex n) s = .next (s.setI (zextImm n)).advance := rfl

/-- A write to `I` leaves every other part as it was. -/
theorem onlyChanges_setI (s : State) (w : Word) : OnlyChanges [.i] s (s.setI w) := by
  intro p hp
  cases p with
  | i => exact absurd List.mem_cons_self hp
  | answers => exact ⟨rfl, rfl, rfl, rfl⟩
  | _ => rfl

/-- Settles O24: the word decodes to `LoadIndex`, which is one `State.setI` of the zero-extended immediate and the advance. -/
theorem loadIndexResult : Obligations.LoadIndexResult := fun n s =>
  ⟨decode_loadIndex n, _, exec_loadIndex n s, (onlyChanges_setI s _).advance, advancesBy_advance rfl, toNat_zextImm n⟩

end Sys2Proof.Machine
end

section
/-! SUPPORT. The clear-screen event (spec/44_display_input_timers.md R150): its word, its next state, and the frame rule of a
recorded call. -/

namespace Sys2Proof.Machine

/-- The first of the two full-word literals (R75). -/
theorem decode_clearScreen : decode 0x00E0#16 = .shape .clearScreen := if_pos rfl

theorem exec_clearScreen (s : State) : exec .clearScreen s = .next s.displayClear.advance := rfl

/-- A recorded call leaves every other part as it was. -/
theorem onlyChanges_record (s : State) (c : Call) : OnlyChanges [.calls] s (s.record c) := by
  intro p hp
  cases p with
  | calls => exact absurd List.mem_cons_self hp
  | answers => exact ⟨rfl, rfl, rfl, rfl⟩
  | _ => rfl

/-- Settles O29: the word decodes to `ClearScreen`, which is one recorded `DisplayClear` and the advance. -/
theorem clearScreenResult : Obligations.ClearScreenResult :=
  ⟨decode_clearScreen, fun s => ⟨_, exec_clearScreen s, (onlyChanges_record s .displayClear).advance,
    advancesBy_advance s.displayClear_pc, by rw [State.advance_ports, State.displayClear_calls]⟩⟩

end Sys2Proof.Machine
end

section
/-! SUPPORT. The decoder and the encoder against each other (spec/30_encoding.md R75 to R81): the words of the instructions
no section above has read, a word from its fields, and the invalid words. -/

namespace Sys2Proof.Machine

/-! ## The words -/

/-- A `0nnn` word whose immediate is neither literal's is `SysCall` (R76, row 1). -/
theorem decode_sysCall {n : Imm12} (h0 : n ≠ 0x0E0#12) (hE : n ≠ 0x0EE#12) :
    decode (formatA 0x0 n) = .shape (.sysCall n) := by
  have hlit : formatA 0x0 n ≠ 0x00E0#16 ∧ formatA 0x0 n ≠ 0x00EE#16 :=
    ⟨fun h => h0 ((nnnField_formatA 0x0 n).symm.trans (congrArg nnnField h)),
      fun h => hE ((nnnField_formatA 0x0 n).symm.trans (congrArg nnnField h))⟩
  rw [decode_of_not_literal hlit]
  simp [decodeTopNibble]

/-- The second of the two full-word literals (R75). -/
theorem decode_ret : decode 0x00EE#16 = .shape .ret := by
  rw [decode, if_neg (by decide), if_pos rfl]

theorem decode_call (n : Imm12) : decode (formatA 0x2 n) = .shape (.call n) := by
  rw [decode_formatA n (by decide)]
  simp [decodeTopNibble]

theorem decode_random (x : RegIx) (k : Byte) : decode (formatXK 0xC x k) = .shape (.random x k) := by
  rw [decode_formatXK x k (by decide)]
  simp [decodeTopNibble]

theorem decode_draw (x y : RegIx) (n : Nibble) : decode (formatXYN 0xD x y n) = .shape (.draw x y n) := by
  rw [decode_formatXYN x y n (by decide)]
  simp [decodeTopNibble]

/-- A word of group E is decoded by its bottom byte (R75). -/
theorem decode_groupE (x : RegIx) (sub : Byte) : decode (formatX 0xE x sub) = decodeGroupE (formatXK 0xE x sub) := by
  rw [formatX_eq, decode_formatXK x sub (by decide)]
  simp [decodeTopNibble]

/-- A word of group F is decoded by its bottom byte (R75). -/
theorem decode_groupF (x : RegIx) (sub : Byte) : decode (formatX 0xF x sub) = decodeGroupF (formatXK 0xF x sub) := by
  rw [formatX_eq, decode_formatXK x sub (by decide)]
  simp [decodeTopNibble]

/-- Settles O2: by the constructor, one lemma for each word that the top nibble alone decodes, and for the groups 8, E and F
the switch on the bottom nibble or byte that the encoder has put there. -/
theorem decodeOfEncodeIsTheInstruction : Obligations.DecodeOfEncodeIsTheInstruction := by
  intro i hwf
  cases i with
  | sysCall n =>
    obtain ⟨h0, hE⟩ : n ≠ 0x0E0#12 ∧ n ≠ 0x0EE#12 := by simpa [Instr.wellFormed] using hwf
    exact decode_sysCall h0 hE
  | clearScreen => exact decode_clearScreen
  | ret => exact decode_ret
  | jump n => exact decode_jump n
  | call n => exact decode_call n
  | skipEqImm x k => exact decode_skipEqImm x k
  | skipNeImm x k => exact decode_skipNeImm x k
  | skipEqReg x y => exact decode_skipEqReg x y
  | skipNeReg x y => exact decode_skipNeReg x y
  | loadImmediate x k => exact decode_loadImmediate x k
  | addImmediate x k => exact decode_addImmediate x k
  | loadIndex n => exact decode_loadIndex n
  | jumpOffset n => exact decode_jumpOffset n
  | random x k => exact decode_random x k
  | draw x y n => exact decode_draw x y n
  | move x y | or x y | and x y | xor x y | add x y | sub x y | shiftRight x y | subReverse x y | shiftLeft x y =>
    exact (decode_group8 x y _).trans (by simp [decodeGroup8])
  | skipKeyDown x | skipKeyUp x => exact (decode_groupE x _).trans (by simp [decodeGroupE])
  | readDelay x | setDelay x | setSound x | waitKey x | addIndex x | fontAddr x | storeBcd x | storeRegs x | loadRegs x =>
    exact (decode_groupF x _).trans (by simp [decodeGroupF])

/-- Settles O1: each of the words is a format's word, whose decoding is known; `0xFFFF` is in no row of group F. -/
theorem sourceDecodeExamples : Obligations.SourceDecodeExamples :=
  ⟨decode_clearScreen, decode_jump 0x228, decode_loadImmediate 0xA 0x02, by decide, decode_add 0x0 0x1,
    decode_draw 0x1 0x2 0x5, decodeOfEncodeIsTheInstruction (.skipKeyDown 0x1) rfl,
    decodeOfEncodeIsTheInstruction (.storeBcd 0x1) rfl, decode_sysCall (n := 0) (by decide) (by decide)⟩

/-! ## The word of a decoded instruction -/

/-- A word is the format-`A` word of its top nibble and `nnn`. -/
theorem formatA_of_op {w : Word} {op : Nibble} (hop : (opField w).toNat = op.toNat) : formatA op (nnnField w) = w := by
  rw [← BitVec.eq_of_toNat_eq hop, formatA_fields]

/-- A word is the format-`XK` word of its top nibble, `x` and `kk`. -/
theorem formatXK_of_op {w : Word} {op : Nibble} (hop : (opField w).toNat = op.toNat) :
    formatXK op (xField w) (kkField w) = w := by
  rw [← BitVec.eq_of_toNat_eq hop, formatXK_fields]

/-- A word is the format-`X` word of its top nibble, `x` and bottom byte. -/
theorem formatX_of_op_sub {w : Word} {op : Nibble} {sub : Byte} (hop : (opField w).toNat = op.toNat)
    (hsub : (kkField w).toNat = sub.toNat) : formatX op (xField w) sub = w := by
  rw [formatX_eq, ← BitVec.eq_of_toNat_eq hsub, formatXK_of_op hop]

/-- A word is the format-`XYN` word of its top nibble, `x`, `y` and bottom nibble. -/
theorem formatXYN_of_op_n {w : Word} {op n : Nibble} (hop : (opField w).toNat = op.toNat)
    (hn : (nField w).toNat = n.toNat) : formatXYN op (xField w) (yField w) n = w := by
  rw [← BitVec.eq_of_toNat_eq hop, ← BitVec.eq_of_toNat_eq hn, formatXYN_fields]

theorem encode_of_decodeGroup8 {w : Word} {i : Instr} (hop : (opField w).toNat = 0x8)
    (h : decodeGroup8 w = .shape i) : i.wellFormed = true ∧ encode i = w := by
  unfold decodeGroup8 at h
  split at h <;> cases h <;> exact ⟨rfl, formatXYN_of_op_n hop ‹_›⟩

theorem encode_of_decodeGroupE {w : Word} {i : Instr} (hop : (opField w).toNat = 0xE)
    (h : decodeGroupE w = .shape i) : i.wellFormed = true ∧ encode i = w := by
  unfold decodeGroupE at h
  split at h <;> cases h <;> exact ⟨rfl, formatX_of_op_sub hop ‹_›⟩

theorem encode_of_decodeGroupF {w : Word} {i : Instr} (hop : (opField w).toNat = 0xF)
    (h : decodeGroupF w = .shape i) : i.wellFormed = true ∧ encode i = w := by
  unfold decodeGroupF at h
  split at h <;> cases h <;> exact ⟨rfl, formatX_of_op_sub hop ‹_›⟩

/-- The immediate of a `0nnn` word that is neither literal is neither literal's. -/
theorem wellFormed_sysCall_of_op {w : Word} (hlit : w ≠ 0x00E0#16 ∧ w ≠ 0x00EE#16) (hop : (opField w).toNat = 0x0) :
    (Instr.sysCall (nnnField w)).wellFormed = true := by
  obtain ⟨h0, hE⟩ := hlit
  have hw : formatA 0x0 (nnnField w) = w := formatA_of_op hop
  have h0' : nnnField w ≠ 0x0E0#12 := fun h => h0 (hw.symm.trans (congrArg (formatA 0x0) h))
  have hE' : nnnField w ≠ 0x0EE#12 := fun h => hE (hw.symm.trans (congrArg (formatA 0x0) h))
  simpa [Instr.wellFormed] using ⟨h0', hE'⟩

theorem encode_of_decodeTopNibble {w : Word} {i : Instr} (hlit : w ≠ 0x00E0#16 ∧ w ≠ 0x00EE#16)
    (h : decodeTopNibble w = .shape i) : i.wellFormed = true ∧ encode i = w := by
  unfold decodeTopNibble at h
  split at h
  case h_1 hop => cases h; exact ⟨wellFormed_sysCall_of_op hlit hop, formatA_of_op hop⟩
  case h_2 hop | h_3 hop | h_11 hop | h_12 hop => cases h; exact ⟨rfl, formatA_of_op hop⟩
  case h_4 hop | h_5 hop | h_7 hop | h_8 hop | h_13 hop => cases h; exact ⟨rfl, formatXK_of_op hop⟩
  case h_6 hop | h_10 hop =>
    split at h
    · next hn => cases h; exact ⟨rfl, formatXYN_of_op_n hop (congrArg BitVec.toNat hn)⟩
    · cases h
  case h_9 hop => exact encode_of_decodeGroup8 hop h
  case h_14 hop => cases h; exact ⟨rfl, formatXYN_of_op_n hop rfl⟩
  case h_15 hop => exact encode_of_decodeGroupE hop h
  case h_16 hop => exact encode_of_decodeGroupF hop h
  case h_17 => cases h

/-- Settles O3: the two literals are their instructions' words; every other word is put together again from the fields the
decoder read, format by format. -/
theorem encodeOfDecodeIsTheWord : Obligations.EncodeOfDecodeIsTheWord := by
  intro w i h
  by_cases h0 : w = 0x00E0#16
  · subst h0; cases decode_clearScreen.symm.trans h; exact ⟨rfl, rfl⟩
  by_cases hE : w = 0x00EE#16
  · subst hE; cases decode_ret.symm.trans h; exact ⟨rfl, rfl⟩
  exact encode_of_decodeTopNibble ⟨h0, hE⟩ ((decode_of_not_literal ⟨h0, hE⟩).symm.trans h)

/-! ## The invalid words (R77) -/

/-- The five groups of R77, in the fields of R72. -/
def InvalidWord (w : Word) : Prop :=
  ((opField w).toNat = 0x5 ∧ (nField w).toNat ≠ 0) ∨
  ((opField w).toNat = 0x8 ∧ (nField w).toNat ∈ [0x8, 0x9, 0xA, 0xB, 0xC, 0xD, 0xF]) ∨
  ((opField w).toNat = 0x9 ∧ (nField w).toNat ≠ 0) ∨
  ((opField w).toNat = 0xE ∧ (kkField w).toNat ∉ [0x9E, 0xA1]) ∨
  ((opField w).toNat = 0xF ∧ (kkField w).toNat ∉ [0x07, 0x0A, 0x15, 0x18, 0x1E, 0x29, 0x33, 0x55, 0x65])

theorem decodeGroup8_invalid_iff (w code : Word) :
    decodeGroup8 w = .invalid code ↔ w = code ∧ (nField w).toNat ∈ [0x8, 0x9, 0xA, 0xB, 0xC, 0xD, 0xF] := by
  have hn : (nField w).toNat < 16 := (nField w).isLt
  unfold decodeGroup8
  split
  case h_10 => simp only [Decoded.invalid.injEq, iff_self_and, List.mem_cons, List.not_mem_nil, or_false, imp_false] at *; omega
  all_goals simp [*]

theorem decodeGroupE_invalid_iff (w code : Word) :
    decodeGroupE w = .invalid code ↔ w = code ∧ (kkField w).toNat ∉ [0x9E, 0xA1] := by
  unfold decodeGroupE
  split
  case h_3 => simp only [Decoded.invalid.injEq, iff_self_and, List.mem_cons, List.not_mem_nil, or_false, imp_false] at *; omega
  all_goals simp [*]

theorem decodeGroupF_invalid_iff (w code : Word) :
    decodeGroupF w = .invalid code ↔
      w = code ∧ (kkField w).toNat ∉ [0x07, 0x0A, 0x15, 0x18, 0x1E, 0x29, 0x33, 0x55, 0x65] := by
  unfold decodeGroupF
  split
  case h_10 => simp only [Decoded.invalid.injEq, iff_self_and, List.mem_cons, List.not_mem_nil, or_false, imp_false] at *; omega
  all_goals simp [*]

/-- The groups 5 and 9: a shape exactly where the bottom nibble is 0. -/
theorem ite_nField_invalid_iff (w code : Word) (i : Instr) :
    (if nField w = 0x0#4 then Decoded.shape i else .invalid w) = .invalid code ↔ w = code ∧ (nField w).toNat ≠ 0 := by
  by_cases hn : nField w = 0x0#4
  · simp [hn]
  · have hn' : (nField w).toNat ≠ 0 := fun h => hn (BitVec.eq_of_toNat_eq h)
    simp [hn, hn']

theorem decodeTopNibble_invalid_iff (w code : Word) :
    decodeTopNibble w = .invalid code ↔ w = code ∧ InvalidWord w := by
  have hop : (opField w).toNat < 16 := (opField w).isLt
  unfold decodeTopNibble InvalidWord
  split
  case h_6 h | h_10 h => simp [h, ite_nField_invalid_iff]
  case h_9 h => simp [h, decodeGroup8_invalid_iff]
  case h_15 h => simp [h, decodeGroupE_invalid_iff]
  case h_16 h => simp [h, decodeGroupF_invalid_iff]
  case h_17 => simp only [imp_false] at *; omega
  all_goals simp [*]

/-- The two literals have top nibble 0, so they are in no group. -/
theorem not_invalidWord_literal : ¬ InvalidWord 0x00E0#16 ∧ ¬ InvalidWord 0x00EE#16 := by
  unfold InvalidWord
  decide

theorem decode_invalid_iff (w code : Word) : decode w = .invalid code ↔ w = code ∧ InvalidWord w := by
  obtain ⟨hn0, hnE⟩ := not_invalidWord_literal
  by_cases h0 : w = 0x00E0#16
  · subst h0; simp [decode_clearScreen, hn0]
  by_cases hE : w = 0x00EE#16
  · subst hE; simp [decode_ret, hnE]
  rw [decode_of_not_literal ⟨h0, hE⟩, decodeTopNibble_invalid_iff]

theorem toNat_opField (w : Word) : (opField w).toNat = w.toNat / 4096 := by
  have hw : w.toNat < 65536 := w.isLt
  rw [opField, BitVec.extractLsb'_toNat, Nat.shiftRight_eq_div_pow, Nat.mod_eq_of_lt (by omega)]

theorem toNat_nField (w : Word) : (nField w).toNat = w.toNat % 16 := BitVec.extractLsb'_toNat ..

theorem toNat_kkField (w : Word) : (kkField w).toNat = w.toNat % 256 := BitVec.extractLsb'_toNat ..

/-- Settles O4: `decode_invalid_iff` says both halves in the fields, and the fields are the quotients and remainders of the
word. -/
theorem invalidWordsAreThoseOfTheTable : Obligations.InvalidWordsAreThoseOfTheTable := by
  intro w
  refine ⟨fun code h => ((decode_invalid_iff w code).1 h).1.symm, ?_⟩
  simp only [decode_invalid_iff, exists_eq_left', InvalidWord, toNat_opField, toNat_nField, toNat_kkField]

end Sys2Proof.Machine
end

section
/-! SUPPORT. The block accesses of memory (spec/20_memory.md R54, R56) and the canonical form: a memory in it is determined
by what it reads (log 2). -/

namespace Sys2Proof.Machine

/-! ## Block write and range read -/

/-- R56: inside the block the byte of the list. -/
theorem Memory.getElem?_of_putAll (m : Memory) (a : Nat) {bs : List Byte} {j : Nat} (hj : j < bs.length) :
    bs[j]? = some ((m.putAll a bs).get (a + j)) := by
  rw [Memory.get_putAll, if_pos (Nat.le_add_right a j), Nat.add_sub_cancel_left, List.getD_eq_getElem?_getD,
    List.getElem?_eq_getElem hj, Option.getD_some]

/-- R56: outside the block as before. -/
theorem Memory.get_putAll_outside (m : Memory) {a k : Nat} {bs : List Byte} (h : k < a ∨ a + bs.length ≤ k) :
    (m.putAll a bs).get k = m.get k := by
  rw [Memory.get_putAll]
  split
  · rw [List.getD_eq_default _ _ (by omega)]
  · rfl

/-- The range that was written reads as the list. -/
theorem Memory.map_get_putAll (m : Memory) (a : Nat) (bs : List Byte) :
    (List.range' a bs.length).map (m.putAll a bs).get = bs := by
  refine List.ext_getElem? fun j => ?_
  rcases Nat.lt_or_ge j bs.length with hj | hj
  · rw [Memory.getElem?_of_putAll m a hj]
    simp [hj]
  · simp [hj]

/-- Settles O7: the two cases are those of the range check, and the block that is written reads back as the list. -/
theorem blockWriteThenRangeRead : Obligations.BlockWriteThenRangeRead := by
  intro m addr bytes
  refine ⟨fun hout => ⟨memCopy_error hout, memReadRange_error (by omega)⟩,
    fun hin => ⟨m.putAll addr bytes, memCopy_ok (by omega), ?_, fun a ha => Memory.get_putAll_outside m ha⟩⟩
  rw [memReadRange_ok (by omega), Nat.add_sub_cancel_left, Memory.map_get_putAll]

/-! ## The canonical form -/

theorem Memory.wf_head_ne_fill {k : Nat} {c : Byte} {rest : Memory} (h : Memory.wf ((k, c) :: rest)) :
    c ≠ Config.memFill :=
  (h.2 (k, c) List.mem_cons_self).2

theorem Memory.wf_head_lt {k : Nat} {c : Byte} {rest : Memory} (h : Memory.wf ((k, c) :: rest)) : ∀ p ∈ rest, k < p.1 :=
  (List.pairwise_cons.1 h.1).1

theorem Memory.wf_tail {p : Host.Cell} {rest : Memory} (h : Memory.wf (p :: rest)) : rest.wf :=
  ⟨h.1.of_cons, fun q hq => h.2 q (List.mem_cons_of_mem _ hq)⟩

/-- An address that is not listed reads as the fill. -/
theorem Memory.get_of_not_listed {m : Memory} {a : Nat} (h : ∀ p ∈ m, a ≠ p.1) : m.get a = Config.memFill := by
  induction m with
  | nil => rfl
  | cons p rest ih =>
    rw [Memory.get, if_neg (h p List.mem_cons_self).symm]
    exact ih fun q hq => h q (List.mem_cons_of_mem _ hq)

theorem Memory.get_head (k : Nat) (c : Byte) (rest : Memory) : Memory.get ((k, c) :: rest) k = c := if_pos rfl

/-- An address below the head of a canonical memory reads as the fill. -/
theorem Memory.get_below_head {k a : Nat} {c : Byte} {rest : Memory} (h : Memory.wf ((k, c) :: rest)) (ha : a < k) :
    Memory.get ((k, c) :: rest) a = Config.memFill := by
  refine Memory.get_of_not_listed fun p hp => ?_
  rcases List.mem_cons.1 hp with rfl | hp
  · exact Nat.ne_of_lt ha
  · exact Nat.ne_of_lt (Nat.lt_trans ha (Memory.wf_head_lt h p hp))

/-- Two canonical memories that read alike have their heads at the same address: the lower head would read as the fill in
the other memory. -/
theorem Memory.head_le_of_get_eq {k k' : Nat} {c c' : Byte} {rest rest' : Memory} (h : Memory.wf ((k, c) :: rest))
    (h' : Memory.wf ((k', c') :: rest')) (hget : ∀ a, Memory.get ((k, c) :: rest) a = Memory.get ((k', c') :: rest') a) :
    k' ≤ k := by
  by_contra hlt
  exact Memory.wf_head_ne_fill h ((Memory.get_head k c rest).symm.trans
    ((hget k).trans (Memory.get_below_head h' (Nat.lt_of_not_le hlt))))

/-- What a canonical memory reads past its head is what its tail reads. -/
theorem Memory.get_tail_eq {k : Nat} {c : Byte} {rest rest' : Memory} (h : Memory.wf ((k, c) :: rest))
    (h' : Memory.wf ((k, c) :: rest'))
    (hget : ∀ a, Memory.get ((k, c) :: rest) a = Memory.get ((k, c) :: rest') a) (a : Nat) : rest.get a = rest'.get a := by
  by_cases ha : k = a
  · subst ha
    rw [Memory.get_of_not_listed fun p hp => Nat.ne_of_lt (Memory.wf_head_lt h p hp),
      Memory.get_of_not_listed fun p hp => Nat.ne_of_lt (Memory.wf_head_lt h' p hp)]
  · simpa only [Memory.get, if_neg ha] using hget a

/-- Settles O8: along the two lists; the heads agree by what is read at and below them, the tails by induction. -/
theorem canonicalMemoriesThatReadAlikeAreEqual : Obligations.CanonicalMemoriesThatReadAlikeAreEqual := by
  intro m
  induction m with
  | nil =>
    intro m' _ hm' hget
    cases m' with
    | nil => rfl
    | cons p rest => exact absurd ((Memory.get_head _ _ _).symm.trans (hget p.1).symm) (Memory.wf_head_ne_fill hm')
  | cons p rest ih =>
    intro m' hm hm' hget
    cases m' with
    | nil => exact absurd ((Memory.get_head _ _ _).symm.trans (hget p.1)) (Memory.wf_head_ne_fill hm)
    | cons p' rest' =>
      obtain ⟨k, c⟩ := p
      obtain ⟨k', c'⟩ := p'
      obtain rfl : k = k' := Nat.le_antisymm (Memory.head_le_of_get_eq hm' hm fun a => (hget a).symm)
        (Memory.head_le_of_get_eq hm hm' hget)
      obtain rfl : c = c' := by simpa only [Memory.get_head] using hget k
      rw [ih rest' (Memory.wf_tail hm) (Memory.wf_tail hm') (Memory.get_tail_eq hm hm' hget)]

end Sys2Proof.Machine
end

section
/-! SUPPORT. The frame rules of the remaining writes: timers, run state, memory, a run of registers, ports; and the next
states of the instructions that cannot raise, with the results of those whose statement says what they compute. -/

namespace Sys2Proof.Machine

/-! ## Frames -/

theorem OnlyChanges.refl (ps : List Part) (s : State) : OnlyChanges ps s s := by
  intro p _
  cases p with
  | answers => exact ⟨rfl, rfl, rfl, rfl⟩
  | _ => rfl

/-- A write to `DT` leaves every other part as it was. -/
theorem onlyChanges_setDt (s : State) (b : Byte) : OnlyChanges [.dt] s (s.setDt b) := by
  intro p hp
  cases p with
  | dt => exact absurd List.mem_cons_self hp
  | answers => exact ⟨rfl, rfl, rfl, rfl⟩
  | _ => rfl

/-- A write to `ST` leaves every other part as it was. -/
theorem onlyChanges_setSt (s : State) (b : Byte) : OnlyChanges [.st] s (s.setSt b) := by
  intro p hp
  cases p with
  | st => exact absurd List.mem_cons_self hp
  | answers => exact ⟨rfl, rfl, rfl, rfl⟩
  | _ => rfl

/-- A change of the run state leaves every other part as it was. -/
theorem onlyChanges_setRun (s : State) (r : RunState) : OnlyChanges [.run] s (s.setRun r) := by
  intro p hp
  cases p with
  | run => exact absurd List.mem_cons_self hp
  | answers => exact ⟨rfl, rfl, rfl, rfl⟩
  | _ => rfl

/-- R168: the halt entry changes the run state alone. -/
theorem onlyChanges_raise (s : State) (e : ExecError) : OnlyChanges [.run] s (s.raise e) := onlyChanges_setRun s _

/-- A call to a collaborator leaves every part but the answers and the calls as it was. -/
theorem onlyChanges_setPorts (s : State) {p : Ports} (h : p.requests = s.ports.requests) :
    OnlyChanges [.answers, .calls] s (s.setPorts p) := by
  intro q hq
  cases q with
  | answers => exact absurd List.mem_cons_self hq
  | calls => exact absurd (List.mem_cons_of_mem _ List.mem_cons_self) hq
  | requests => exact h
  | _ => rfl

theorem onlyChanges_displayDraw (s : State) (x y : Byte) (rows : List Byte) :
    OnlyChanges [.answers, .calls] s (s.displayDraw x y rows) := onlyChanges_setPorts s rfl

theorem onlyChanges_askKeyDown (s : State) (key : Byte) : OnlyChanges [.answers, .calls] s (s.askKeyDown key) :=
  onlyChanges_setPorts s rfl

theorem onlyChanges_askRandom (s : State) : OnlyChanges [.answers, .calls] s s.askRandom := onlyChanges_setPorts s rfl

/-- Taking a request off the list leaves every other part as it was. -/
theorem onlyChanges_takeRequest (s : State) : OnlyChanges [.requests] s s.takeRequest := by
  intro p hp
  cases p with
  | requests => exact absurd List.mem_cons_self hp
  | answers => exact ⟨rfl, rfl, rfl, rfl⟩
  | _ => rfl

/-- A new memory that reads as the old one but at the listed bytes. -/
theorem onlyChanges_setMem {ps : List Part} (s : State) {m : Memory}
    (h : ∀ a, Part.byte a ∉ ps → m.get a = s.byte a) : OnlyChanges ps s (s.setMem m) := by
  intro p hp
  cases p with
  | byte a => exact h a hp
  | answers => exact ⟨rfl, rfl, rfl, rfl⟩
  | _ => rfl

theorem byte_mem_bytesFromI (s : State) (count a : Nat) :
    Part.byte a ∈ s.bytesFromI count ↔ s.base ≤ a ∧ a < s.base + count := by
  simp only [State.bytesFromI, List.mem_map, List.mem_range, Part.byte.injEq]
  constructor
  · rintro ⟨j, hj, rfl⟩
    omega
  · rintro ⟨hle, hlt⟩
    exact ⟨a - s.base, by omega, by omega⟩

/-- A block write at `I` changes the bytes it covers alone (R56, R60). -/
theorem onlyChanges_putAll (s : State) (bs : List Byte) :
    OnlyChanges (s.bytesFromI bs.length) s (s.setMem (s.mem.putAll s.base bs)) :=
  onlyChanges_setMem s fun a ha =>
    Memory.get_putAll_outside s.mem (by rw [byte_mem_bytesFromI] at ha; omega)

theorem reg_mem_regsFromV0 (r : RegIx) {count : Nat} (hr : r.toNat < count) : Part.reg r ∈ regsFromV0 count :=
  List.mem_map.2 ⟨r.toNat, List.mem_range.2 hr, congrArg Part.reg (by rw [BitVec.ofNat_toNat, BitVec.setWidth_eq])⟩

/-- A run of registers written from `V0` up changes those registers alone (R145). -/
theorem onlyChanges_setRegs (s : State) (bs : List Byte) : OnlyChanges (regsFromV0 bs.length) s (s.setRegs bs) := by
  intro p hp
  cases p with
  | reg r =>
    have hr : bs.length ≤ r.toNat := Nat.le_of_not_lt fun h => hp (reg_mem_regsFromV0 r h)
    show (s.setRegs bs).reg r = s.reg r
    rw [State.reg_setRegs, List.getD_eq_default _ _ hr]
  | _ => simp [Part.Same]

/-- A pushed return address and a jump change `pc`, `sp` and the slot written alone (R104). -/
theorem onlyChanges_call (s : State) {stk : Vector Word 16} {sp' : Fin 17} {w a : Word}
    (h : ∀ j : Nat, stk[j]? = if s.sp.val = j then some a else s.stack[j]?) :
    OnlyChanges [.pc, .sp, .slot s.sp.val] s { s with stack := stk, sp := sp', pc := w } := by
  intro p hp
  cases p with
  | pc | sp => simp at hp
  | slot j =>
    have hj : ¬ s.sp.val = j := by simpa [eq_comm] using hp
    exact (h j).trans (if_neg hj)
  | answers => exact ⟨rfl, rfl, rfl, rfl⟩
  | _ => rfl

/-- A popped return address changes `pc` and `sp` alone (R102). -/
theorem onlyChanges_ret (s : State) (sp' : Fin 17) (w : Word) :
    OnlyChanges [.pc, .sp] s { s with pc := w, sp := sp' } := by
  intro p hp
  cases p with
  | pc | sp => simp at hp
  | answers => exact ⟨rfl, rfl, rfl, rfl⟩
  | _ => rfl

end Sys2Proof.Machine
end

section
/-! SUPPORT. The instructions that cannot raise (spec/40_control_transfer.md to spec/44_display_input_timers.md): their next
states, the results of their writes as natural numbers, and the statements about them. -/

namespace Sys2Proof.Machine

/-! ## The next states -/

theorem exec_sysCall (n : Imm12) (s : State) : exec (.sysCall n) s = .next (s.raise .unsupported) := rfl

theorem exec_or (x y : RegIx) (s : State) : exec (.or x y) s = .next (s.setReg x (s.reg x ||| s.reg y)).advance := rfl

theorem exec_and (x y : RegIx) (s : State) : exec (.and x y) s = .next (s.setReg x (s.reg x &&& s.reg y)).advance := rfl

theorem exec_xor (x y : RegIx) (s : State) : exec (.xor x y) s = .next (s.setReg x (s.reg x ^^^ s.reg y)).advance := rfl

theorem exec_sub (x y : RegIx) (s : State) : exec (.sub x y) s =
    .next (s.writeResult x (diff8 (s.reg x) (s.reg y)) (noBorrow (s.reg x) (s.reg y))).advance := rfl

theorem exec_shiftRight (x y : RegIx) (s : State) :
    exec (.shiftRight x y) s = .next (s.writeResult x (shr1 (s.reg x)) (lowBit (s.reg x))).advance := rfl

theorem exec_subReverse (x y : RegIx) (s : State) : exec (.subReverse x y) s =
    .next (s.writeResult x (diff8 (s.reg y) (s.reg x)) (noBorrow (s.reg y) (s.reg x))).advance := rfl

theorem exec_shiftLeft (x y : RegIx) (s : State) :
    exec (.shiftLeft x y) s = .next (s.writeResult x (shl1 (s.reg x)) (highBit (s.reg x))).advance := rfl

theorem exec_random (x : RegIx) (k : Byte) (s : State) :
    exec (.random x k) s = .next (s.askRandom.setReg x (s.randomAnswer &&& k)).advance := rfl

theorem exec_skipKeyDown (x : RegIx) (s : State) : exec (.skipKeyDown x) s =
    .next ((s.askKeyDown (s.reg x)).skipIf (s.keyDownAnswer (s.reg x))) := rfl

theorem exec_skipKeyUp (x : RegIx) (s : State) : exec (.skipKeyUp x) s =
    .next ((s.askKeyDown (s.reg x)).skipIf (!s.keyDownAnswer (s.reg x))) := rfl

theorem exec_addIndex (x : RegIx) (s : State) :
    exec (.addIndex x) s = .next (s.setI (s.i + zextReg (s.reg x))).advance := rfl

theorem exec_fontAddr (x : RegIx) (s : State) : exec (.fontAddr x) s = .next (s.setI (glyphAddr (s.reg x))).advance := rfl

theorem exec_readDelay (x : RegIx) (s : State) : exec (.readDelay x) s = .next (s.setReg x s.dt).advance := rfl

theorem exec_setDelay (x : RegIx) (s : State) : exec (.setDelay x) s = .next (s.setDt (s.reg x)).advance := rfl

theorem exec_setSound (x : RegIx) (s : State) : exec (.setSound x) s = .next (s.setSt (s.reg x)).advance := rfl

theorem exec_waitKey (x : RegIx) (s : State) : exec (.waitKey x) s = .next (s.setRun (.awaitingKey x)) := rfl

/-! ## The values -/

/-- The difference modulo 256 (R130, R132). -/
theorem toNat_diff8 (a b : Byte) : ((diff8 a b).toNat : Int) = (a.toNat - b.toNat : Int) % 256 := by
  have ha : a.toNat < 256 := a.isLt
  have hb : b.toNat < 256 := b.isLt
  rw [diff8, BitVec.toNat_ofNat]
  omega

theorem noBorrow_eq_true_iff (a b : Byte) : noBorrow a b = true ↔ b.toNat ≤ a.toNat := decide_eq_true_iff

theorem toNat_shr1 (a : Byte) : (shr1 a).toNat = a.toNat / 2 := by
  have ha : a.toNat < 256 := a.isLt
  rw [shr1, BitVec.toNat_ofNat, Nat.mod_eq_of_lt (by omega)]

theorem toNat_shl1 (a : Byte) : (shl1 a).toNat = 2 * a.toNat % 256 := BitVec.toNat_ofNat ..

/-- The bit a right shift moves out, as the byte in `VF` (R131). -/
theorem toNat_flagByte_lowBit (a : Byte) : (flagByte (lowBit a)).toNat = a.toNat % 2 := by
  rw [toNat_flagByte, lowBit]
  simp only [decide_eq_true_iff]
  split <;> omega

/-- The bit a left shift moves out, as the byte in `VF` (R133). -/
theorem toNat_flagByte_highBit (a : Byte) : (flagByte (highBit a)).toNat = a.toNat / 128 := by
  have ha : a.toNat < 256 := a.isLt
  rw [toNat_flagByte, highBit]
  simp only [decide_eq_true_iff]
  split <;> omega

/-- The glyph address of the largest byte is `0x054B`, so it is not reduced (R142). -/
theorem toNat_glyphAddr (b : Byte) : (glyphAddr b).toNat = 0x050 + 5 * b.toNat := by
  have hb : b.toNat < 256 := b.isLt
  rw [glyphAddr, BitVec.toNat_ofNat, Config.fontBase, Config.glyphStride, Nat.mod_eq_of_lt (by omega)]

/-- All that an instruction of one result, its flag and the advance does (R120, R122). -/
theorem writeResult_advance_effect (s : State) (x : RegIx) (b : Byte) (f : Bool) :
    OnlyChanges [.pc, .reg x, .reg 15] s (s.writeResult x b f).advance ∧ AdvancesBy 2 s (s.writeResult x b f).advance ∧
      (s.writeResult x b f).advance.reg 15 = flagByte f ∧ (x ≠ 15 → (s.writeResult x b f).advance.reg x = b) :=
  ⟨(onlyChanges_writeResult s x b f).advance, advancesBy_advance rfl, s.reg_writeResult_vf x b f,
    s.reg_writeResult_dest b f⟩

/-! ## The statements -/

/-- Settles O10: the word decodes to `SysCall`, which is one halt entry. -/
theorem sysCallRaisesUnsupported : Obligations.SysCallRaisesUnsupported := fun n s =>
  ⟨decode_sysCall, _, exec_sysCall n s, onlyChanges_raise s _, rfl⟩

/-- Settles O19: each of the three is one `State.setReg` of the combined byte, and the combination is bit by bit. -/
theorem logicResults : Obligations.LogicResults := by
  intro x y s
  obtain ⟨hor, hpcOr, horReg⟩ := setReg_advance_effect s x (s.reg x ||| s.reg y)
  obtain ⟨hand, hpcAnd, handReg⟩ := setReg_advance_effect s x (s.reg x &&& s.reg y)
  obtain ⟨hxor, hpcXor, hxorReg⟩ := setReg_advance_effect s x (s.reg x ^^^ s.reg y)
  refine ⟨⟨_, exec_or x y s, hor, hpcOr, fun j => ?_⟩, ⟨_, exec_and x y s, hand, hpcAnd, fun j => ?_⟩,
    _, exec_xor x y s, hxor, hpcXor, fun j => ?_⟩
  · rw [horReg, BitVec.getLsbD_or]
  · rw [handReg, BitVec.getLsbD_and]
  · rw [hxorReg, BitVec.getLsbD_xor]

/-- A subtraction `a - b` into `V[x]`: the flag is "no borrow", the result the difference modulo 256 (R130, R132). -/
theorem diff8_writeResult_effect (s : State) (x : RegIx) (a b : Byte) :
    OnlyChanges [.pc, .reg x, .reg 15] s (s.writeResult x (diff8 a b) (noBorrow a b)).advance ∧
      AdvancesBy 2 s (s.writeResult x (diff8 a b) (noBorrow a b)).advance ∧
      ((s.writeResult x (diff8 a b) (noBorrow a b)).advance.reg 15).toNat = (if b.toNat ≤ a.toNat then 1 else 0) ∧
      (x ≠ 15 → (((s.writeResult x (diff8 a b) (noBorrow a b)).advance.reg x).toNat : Int) =
        (a.toNat - b.toNat : Int) % 256) := by
  obtain ⟨hframe, hpc, hflag, hdest⟩ := writeResult_advance_effect s x (diff8 a b) (noBorrow a b)
  refine ⟨hframe, hpc, ?_, fun hx => ?_⟩
  · simp only [hflag, toNat_flagByte, noBorrow_eq_true_iff]
  · rw [hdest hx, toNat_diff8]

/-- Settles O21: the two subtractions are one shape with the operands exchanged. -/
theorem subtractResults : Obligations.SubtractResults := fun x y s =>
  ⟨⟨_, exec_sub x y s, diff8_writeResult_effect s x (s.reg x) (s.reg y)⟩,
    _, exec_subReverse x y s, diff8_writeResult_effect s x (s.reg y) (s.reg x)⟩

/-- Settles O22: each shift is one `State.writeResult` of the shifted byte and the bit moved out. -/
theorem shiftResults : Obligations.ShiftResults := by
  intro x y s
  obtain ⟨hframeR, hpcR, hflagR, hdestR⟩ := writeResult_advance_effect s x (shr1 (s.reg x)) (lowBit (s.reg x))
  obtain ⟨hframeL, hpcL, hflagL, hdestL⟩ := writeResult_advance_effect s x (shl1 (s.reg x)) (highBit (s.reg x))
  exact ⟨⟨_, exec_shiftRight x y s, hframeR, hpcR, by rw [hflagR, toNat_flagByte_lowBit],
      fun hx => by rw [hdestR hx, toNat_shr1]⟩,
    _, exec_shiftLeft x y s, hframeL, hpcL, by rw [hflagL, toNat_flagByte_highBit],
      fun hx => by rw [hdestL hx, toNat_shl1]⟩

theorem onlyChanges_random (s : State) (x : RegIx) (b : Byte) :
    OnlyChanges [.reg x, .answers, .calls] s (s.askRandom.setReg x b) :=
  ((onlyChanges_askRandom s).mono (by simp)).trans (onlyChanges_setReg _ x b) (by simp)

/-- Settles O23: the byte drawn is masked, and a mask has no bit in common with its complement. -/
theorem randomResult : Obligations.RandomResult := by
  intro x k s
  have hreg : (s.askRandom.setReg x (s.randomAnswer &&& k)).advance.reg x = s.randomAnswer &&& k := by
    rw [State.advance_reg, State.reg_setReg, if_pos rfl]
  refine ⟨_, exec_random x k s, (onlyChanges_random s x _).advance, advancesBy_advance rfl, hreg, ?_, rfl⟩
  rw [hreg, BitVec.and_assoc, BitVec.and_not_self]
  exact BitVec.and_zero

theorem onlyChanges_keySkip (s : State) (key : Byte) (c : Bool) :
    OnlyChanges [.pc, .answers, .calls] s ((s.askKeyDown key).skipIf c) :=
  ((onlyChanges_askKeyDown s key).mono (by simp)).trans (onlyChanges_skipIf _ c) (by simp)

/-- Settles O17: each is one question about `V[x]` and one `State.skipIf` on the answer or its negation. -/
theorem keySkips : Obligations.KeySkips := by
  intro x s
  refine ⟨⟨_, exec_skipKeyDown x s, onlyChanges_keySkip s _ _, advancesBy_skipIf (s.askKeyDown _) Iff.rfl, rfl⟩,
    _, exec_skipKeyUp x s, onlyChanges_keySkip s _ _, ?_, rfl⟩
  rw [← ite_not]
  exact advancesBy_skipIf (s.askKeyDown _) (by simp)

/-- Settles O25: each is one `State.setI` and the advance; the sum is reduced modulo 65536, the glyph address is not. -/
theorem indexArithmetic : Obligations.IndexArithmetic := by
  intro x s
  refine ⟨⟨_, exec_addIndex x s, (onlyChanges_setI s _).advance, advancesBy_advance rfl, ?_⟩,
    _, exec_fontAddr x s, (onlyChanges_setI s _).advance, advancesBy_advance rfl, toNat_glyphAddr _⟩
  rw [State.advance_i, State.setI_i, BitVec.toNat_add, toNat_zextReg]

/-- Settles O31: each transfer is one write and the advance. -/
theorem timerTransfers : Obligations.TimerTransfers := fun x s =>
  ⟨⟨_, exec_readDelay x s, setReg_advance_effect s x s.dt⟩,
    ⟨_, exec_setDelay x s, (onlyChanges_setDt s _).advance, advancesBy_advance rfl, rfl⟩,
    _, exec_setSound x s, (onlyChanges_setSt s _).advance, advancesBy_advance rfl, rfl⟩

/-- Settles O32: the instruction is one write of the run state. -/
theorem waitKeyWaits : Obligations.WaitKeyWaits := fun x s => ⟨_, exec_waitKey x s, onlyChanges_setRun s _, rfl⟩

end Sys2Proof.Machine
end

section
/-! SUPPORT. Call and return (spec/40_control_transfer.md R102, R104), and the instructions that go through memory at `I`
(spec/43_index_memory.md R143 to R145, spec/44_display_input_timers.md R151), each where it completes. -/

namespace Sys2Proof.Machine

/-! ## Call and return -/

/-- Settles O11: with an entry live the pop changes `pc` and `sp` alone. -/
theorem returnPopsIntoPc : Obligations.ReturnPopsIntoPc := by
  intro s hlive
  obtain ⟨w, sp', he, hsp, hw⟩ := exec_ret_live s hlive
  exact ⟨_, he, onlyChanges_ret s sp' w, (Nat.sub_eq_of_eq_add hsp.symm).symm, hw⟩

/-- Settles O13: with room left the push changes `sp` and the slot at `sp`, and the jump sets `pc`. -/
theorem callPushesTheNextAddress : Obligations.CallPushesTheNextAddress := by
  intro n s hroom
  obtain ⟨stk, sp', he, hsp, hstk⟩ := exec_call_room s n hroom
  exact ⟨_, he, onlyChanges_call s hstk, hsp, (hstk _).trans (if_pos rfl), toNat_zextImm n⟩

/-- A frame gives up a part that has its old value again. -/
theorem OnlyChanges.except {ps qs : List Part} {s t : State} {p : Part} (h : OnlyChanges ps s t) (hp : p.Same s t)
    (hsub : ∀ q ∈ ps, q = p ∨ q ∈ qs) : OnlyChanges qs s t := by
  intro q hq
  by_cases hqp : q = p
  · exact hqp ▸ hp
  · exact h q fun hmem => (hsub q hmem).elim hqp hq

/-- Settles O14: the slot that the call wrote is the live top that the return pops. -/
theorem callThenReturnComesBack : Obligations.CallThenReturnComesBack := by
  intro n s hroom
  obtain ⟨t, hcall, hframeCall, hspCall, hslot, -⟩ := callPushesTheNextAddress n s hroom
  obtain ⟨u, hret, hframeRet, hspRet, htop⟩ := returnPopsIntoPc t (by omega)
  have hsp : u.sp = s.sp := Fin.ext (by omega)
  have hpc : u.pc = s.pc + 2 := by
    rw [hspCall, Nat.add_sub_cancel, hslot] at htop
    exact (Option.some.inj htop).symm
  refine ⟨t, u, hcall, hret, (hframeCall.trans hframeRet (by simp)).except (p := .sp) hsp (by simp), ?_⟩
  rw [AdvancesBy, hpc, BitVec.toNat_add]
  rfl

/-! ## Storing -/

@[simp] theorem State.setMem_byte (s : State) (m : Memory) (a : Nat) : (s.setMem m).byte a = m.get a := rfl

/-- The byte stored for register `r` (R144). -/
theorem State.get_putAll_regsUpTo (s : State) {x r : RegIx} (h : r.toNat ≤ x.toNat) :
    (s.mem.putAll s.base (s.regsUpTo x)).get (s.base + r.toNat) = s.reg r := by
  rw [Memory.get_putAll, if_pos (Nat.le_add_right ..), Nat.add_sub_cancel_left, State.getD_regsUpTo s x r _ h]

theorem onlyChanges_storeRegs (s : State) (x : RegIx) :
    OnlyChanges (s.bytesFromI (x.toNat + 1)) s (s.setMem (s.mem.putAll s.base (s.regsUpTo x))) := by
  rw [← State.length_regsUpTo s x]
  exact onlyChanges_putAll s _

/-- Settles O27: inside memory the instruction is one block write and the advance. -/
theorem storeRegsStoresTheRange : Obligations.StoreRegsStoresTheRange := by
  intro x s hin
  exact ⟨_, exec_storeRegs_inside s x (Nat.lt_succ_of_le hin), (onlyChanges_storeRegs s x).advance, advancesBy_advance rfl,
    fun r hr => s.get_putAll_regsUpTo hr⟩

/-- Settles O9: the two bytes the fetch reads at `pc + 2` are those stored for `V0` and `V1`. -/
theorem storeIsSeenByTheNextFetch : Obligations.StoreIsSeenByTheNextFetch := by
  intro x s hx hin hi
  obtain ⟨t, he, -, hpc, hbytes⟩ := storeRegsStoresTheRange x s hin
  have hpc' : t.pc.toNat = s.base := by
    have hlt : s.i.toNat < 65536 := s.i.isLt
    rw [hpc, ← hi, Nat.mod_eq_of_lt hlt, State.base]
  refine ⟨t, he, ?_⟩
  obtain ⟨-, hread⟩ | ⟨hout, -⟩ := memReadWord_cases t.mem t.pc.toNat
  · rw [State.fetch, hread, hpc']
    exact congrArg Except.ok (congrArg₂ _ (hbytes 0 (Nat.zero_le _)) (hbytes 1 hx))
  · rw [hpc', State.base] at hout
    omega

theorem toNat_hundreds (b : Byte) : (hundreds b).toNat = b.toNat / 100 := by
  have hb : b.toNat < 256 := b.isLt
  rw [hundreds, BitVec.toNat_ofNat, Nat.mod_eq_of_lt (by omega)]

theorem toNat_tens (b : Byte) : (tens b).toNat = b.toNat / 10 % 10 := by
  rw [tens, BitVec.toNat_ofNat, Nat.mod_eq_of_lt (by omega)]

theorem toNat_ones (b : Byte) : (ones b).toNat = b.toNat % 10 := by
  rw [ones, BitVec.toNat_ofNat, Nat.mod_eq_of_lt (by omega)]

/-- The three digits change the bytes at `I`, `I+1`, `I+2` alone (R143). -/
theorem onlyChanges_storeBcd (s : State) {m : Memory} {h t o : Byte}
    (hget : ∀ k, m.get k = if k = s.base + 2 then o else if k = s.base + 1 then t else if k = s.base then h
      else s.byte k) :
    OnlyChanges [.byte s.base, .byte (s.base + 1), .byte (s.base + 2)] s (s.setMem m) :=
  onlyChanges_setMem s fun a ha => by
    simp only [List.mem_cons, List.not_mem_nil, or_false, not_or, Part.byte.injEq] at ha
    obtain ⟨h0, h1, h2⟩ := ha
    rw [hget, if_neg h2, if_neg h1, if_neg h0]

/-- Settles O26: the three bytes are the quotients and remainders of `V[x]`. -/
theorem storeBcdStoresDigits : Obligations.StoreBcdStoresDigits := by
  intro x s hin
  obtain ⟨m, he, -, hget⟩ := exec_storeBcd_inside s x (Nat.lt_succ_of_le hin)
  have hlt : (s.reg x).toNat < 256 := (s.reg x).isLt
  refine ⟨_, he, (onlyChanges_storeBcd s hget).advance, advancesBy_advance rfl, ?_⟩
  have h0 : (m.get s.base).toNat = (s.reg x).toNat / 100 := by
    rw [hget, if_neg (by omega), if_neg (by omega), if_pos rfl, toNat_hundreds]
  have h1 : (m.get (s.base + 1)).toNat = (s.reg x).toNat / 10 % 10 := by
    rw [hget, if_neg (by omega), if_pos rfl, toNat_tens]
  have h2 : (m.get (s.base + 2)).toNat = (s.reg x).toNat % 10 := by
    rw [hget, if_pos rfl, toNat_ones]
  simp only [State.advance_byte, State.setMem_byte, h0, h1, h2]
  omega

/-! ## Loading and drawing -/

theorem onlyChanges_loadRegs (s : State) (x : RegIx) :
    OnlyChanges (regsFromV0 (x.toNat + 1)) s (s.setRegs ((List.range' s.base (x.toNat + 1)).map s.byte)) := by
  have hframe := onlyChanges_setRegs s ((List.range' s.base (x.toNat + 1)).map s.byte)
  rwa [List.length_map, List.length_range'] at hframe

/-- The bytes from `I`, by their offsets (R60). -/
theorem State.getElem?_map_byte (s : State) {count j : Nat} (hj : j < count) :
    ((List.range' s.base count).map s.byte)[j]? = some (s.byte (s.base + j)) := by
  simp [hj]

/-- Settles O28: inside memory the instruction is one write of the bytes from `I` to the registers, and the advance. -/
theorem loadRegsLoadsTheRange : Obligations.LoadRegsLoadsTheRange := by
  intro x s hin
  refine ⟨_, exec_loadRegs_inside s x (Nat.lt_succ_of_le hin), (onlyChanges_loadRegs s x).advance, advancesBy_advance rfl,
    fun r hr => ?_⟩
  rw [State.advance_reg, State.reg_setRegs, List.getD_eq_getElem?_getD, s.getElem?_map_byte (Nat.lt_succ_of_le hr),
    Option.getD_some]

theorem onlyChanges_draw (s : State) (x y : Byte) (rows : List Byte) (f : Bool) :
    OnlyChanges [.reg 15, .answers, .calls] s ((s.displayDraw x y rows).writeFlag f) :=
  ((onlyChanges_displayDraw s x y rows).mono (by simp)).trans (onlyChanges_setReg _ vf _) (by simp [vf])

/-- Drawing leaves the answer in `VF` (R151). -/
theorem State.reg_writeFlag_vf (s : State) (f : Bool) : (s.writeFlag f).reg 15 = flagByte f :=
  (s.reg_writeFlag 15 f).trans (if_pos rfl)

/-- Settles O30: the sprite that is sent is the range of `n` bytes from `I`. -/
theorem drawResult : Obligations.DrawResult := by
  intro x y n s hin
  refine ⟨_, exec_draw_inside s x y n (by rw [State.base]; omega), (onlyChanges_draw s _ _ _ _).advance,
    advancesBy_advance rfl, ?_,
    (List.range' s.base n.toNat).map s.byte, by simp, fun j hj => s.getElem?_map_byte hj, rfl⟩
  rw [State.advance_reg, State.reg_writeFlag_vf, toNat_flagByte]

end Sys2Proof.Machine
end

section
/-! SUPPORT. What `exec` can do, said once for all 35 instructions (spec/60_exceptions.md R160, R161, R168): it raises the
error of the table and halts, or it completes with the effects of `Completes`. The statements over all instructions are
read off this. -/

namespace Sys2Proof.Machine

/-! ## An instruction that completes -/

/-- Instruction `i` takes `s` to `t` and raises nothing: it changes what its rule names (R22, R39, R60), moves `pc` by its
class (R24), leaves 0 or 1 in `VF` where it is a flag writer (R21), and keeps the canonical form of memory (log 2). -/
structure Completes (i : Instr) (s t : State) : Prop where
  exec_eq : exec i s = .next t
  frame : OnlyChanges (writesIfDone i s) s t
  advance : ∀ ds, pcAdvance i = some ds → ∃ d ∈ ds, AdvancesBy d s t
  flag : writesFlag i = true → (t.reg 15).toNat ≤ 1
  mem_wf : s.mem.wf → t.mem.wf

theorem toNat_flagByte_le (f : Bool) : (flagByte f).toNat ≤ 1 := by cases f <;> decide

section
variable {i : Instr} {s u : State}

/-- An instruction that ends with the sequential advance (R122). -/
theorem Completes.of_advance {ps : List Part} (he : exec i s = .next u.advance) (hw : writesIfDone i s = .pc :: ps)
    (hd : pcAdvance i = some [2]) (hframe : OnlyChanges ps s u) (hpc : u.pc = s.pc)
    (hflag : writesFlag i = true → (u.reg 15).toNat ≤ 1) (hmem : s.mem.wf → u.mem.wf) : Completes i s u.advance where
  exec_eq := he
  frame := hw ▸ hframe.advance
  advance ds h := by
    cases hd.symm.trans h
    exact ⟨2, List.mem_cons_self, advancesBy_advance hpc⟩
  flag := hflag
  mem_wf := hmem

/-- An instruction of one register write and the advance. -/
theorem Completes.of_setReg {x : RegIx} {b : Byte} (he : exec i s = .next (s.setReg x b).advance)
    (hw : writesIfDone i s = [.pc, .reg x]) (hd : pcAdvance i = some [2]) (hflag : writesFlag i = false) :
    Completes i s (s.setReg x b).advance :=
  .of_advance he hw hd (onlyChanges_setReg s x b) rfl (fun h => absurd (hflag.symm.trans h) Bool.false_ne_true) id

/-- An instruction of one result, its flag and the advance (R120). -/
theorem Completes.of_writeResult {x : RegIx} {b : Byte} {f : Bool} (he : exec i s = .next (s.writeResult x b f).advance)
    (hw : writesIfDone i s = [.pc, .reg x, .reg 15]) (hd : pcAdvance i = some [2]) :
    Completes i s (s.writeResult x b f).advance :=
  .of_advance he hw hd (onlyChanges_writeResult s x b f) rfl
    (fun _ => by rw [State.reg_writeResult_vf]; exact toNat_flagByte_le f) id

/-- An instruction of one write to `I` and the advance. -/
theorem Completes.of_setI {w : Word} (he : exec i s = .next (s.setI w).advance) (hw : writesIfDone i s = [.pc, .i])
    (hd : pcAdvance i = some [2]) (hflag : writesFlag i = false) : Completes i s (s.setI w).advance :=
  .of_advance he hw hd (onlyChanges_setI s w) rfl (fun h => absurd (hflag.symm.trans h) Bool.false_ne_true) id

/-- An instruction that may skip (R109). -/
theorem Completes.of_skipIf {ps : List Part} {c : Bool} (he : exec i s = .next (u.skipIf c))
    (hw : writesIfDone i s = .pc :: ps) (hd : pcAdvance i = some [2, 4]) (hframe : OnlyChanges ps s u)
    (hpc : u.pc = s.pc) (hflag : writesFlag i = false) (hmem : u.mem = s.mem) : Completes i s (u.skipIf c) where
  exec_eq := he
  frame := hw ▸ (hframe.mono (List.subset_cons_self _ _)).trans (onlyChanges_skipIf u c) (by simp)
  advance ds h := by
    cases hd.symm.trans h
    have hadv : AdvancesBy (if c = true then 4 else 2) s (u.skipIf c) := by
      rw [AdvancesBy, ← hpc]
      exact advancesBy_skipIf u Iff.rfl
    exact ⟨_, by cases c <;> simp, hadv⟩
  flag h := absurd (hflag.symm.trans h) Bool.false_ne_true
  mem_wf h := hmem ▸ h

/-- A control transfer: no class of advance, no flag, memory as it was. -/
theorem Completes.of_transfer {t : State} (he : exec i s = .next t) (hframe : OnlyChanges (writesIfDone i s) s t)
    (hd : pcAdvance i = none) (hflag : writesFlag i = false) (hmem : t.mem = s.mem) : Completes i s t where
  exec_eq := he
  frame := hframe
  advance _ h := absurd (hd.symm.trans h) nofun
  flag h := absurd (hflag.symm.trans h) Bool.false_ne_true
  mem_wf h := hmem ▸ h

end

/-! ## Raise or complete -/

theorem completes_waitKey (x : RegIx) (s : State) : Completes (.waitKey x) s (s.setRun (.awaitingKey x)) where
  exec_eq := exec_waitKey x s
  frame := onlyChanges_setRun s _
  advance ds h := by
    cases h
    exact ⟨0, List.mem_cons_self, (Nat.mod_eq_of_lt s.pc.isLt).symm⟩
  flag := nofun
  mem_wf := id

theorem completes_call {s : State} (n : Imm12) (h : s.sp.val < 16) : ∃ t, Completes (.call n) s t := by
  obtain ⟨stk, sp', he, -, hstk⟩ := exec_call_room s n h
  exact ⟨_, .of_transfer he (onlyChanges_call s hstk) rfl rfl rfl⟩

theorem completes_ret {s : State} (h : 0 < s.sp.val) : ∃ t, Completes .ret s t := by
  obtain ⟨w, sp', he, -, -⟩ := exec_ret_live s h
  exact ⟨_, .of_transfer he (onlyChanges_ret s sp' w) rfl rfl rfl⟩

theorem completes_storeBcd {s : State} (x : RegIx) (h : s.base + 2 < 4096) : ∃ t, Completes (.storeBcd x) s t := by
  obtain ⟨m, he, hwf, hget⟩ := exec_storeBcd_inside s x h
  exact ⟨_, .of_advance he rfl rfl (onlyChanges_storeBcd s hget) rfl nofun hwf⟩

theorem completes_storeRegs {s : State} (x : RegIx) (h : s.base + x.toNat < 4096) :
    ∃ t, Completes (.storeRegs x) s t := by
  refine ⟨_, .of_advance (exec_storeRegs_inside s x h) rfl rfl (onlyChanges_storeRegs s x) rfl nofun fun hwf => ?_⟩
  exact Memory.wf_putAll hwf (.inl (by rw [State.length_regsUpTo, Config.memSize]; omega))

theorem completes_loadRegs {s : State} (x : RegIx) (h : s.base + x.toNat < 4096) :
    ∃ t, Completes (.loadRegs x) s t :=
  ⟨_, .of_advance (exec_loadRegs_inside s x h) rfl rfl (onlyChanges_loadRegs s x) rfl nofun id⟩

theorem completes_draw {s : State} (x y : RegIx) (n : Nibble) (h : ¬ (0 < n.toNat ∧ 4096 < s.base + n.toNat)) :
    ∃ t, Completes (.draw x y n) s t := by
  refine ⟨_, .of_advance (exec_draw_inside s x y n h) rfl rfl (onlyChanges_draw s _ _ _ _) rfl (fun _ => ?_) id⟩
  rw [State.reg_writeFlag_vf]
  exact toNat_flagByte_le _

/-- Where the table gives an instruction no error, it completes (R160, R161). -/
theorem exec_completes (i : Instr) (s : State) (h : raisedBy i s = none) : ∃ t, Completes i s t := by
  cases i with
  | sysCall n => cases h
  | ret => exact completes_ret (by simpa [raisedBy, Nat.pos_iff_ne_zero] using h)
  | call n =>
    have hne : s.sp.val ≠ 16 := by simpa [raisedBy] using h
    exact completes_call n (by omega)
  | storeBcd x => exact completes_storeBcd x (Nat.lt_succ_of_le (by simpa [raisedBy, State.base] using h))
  | storeRegs x => exact completes_storeRegs x (Nat.lt_succ_of_le (by simpa [raisedBy, State.base] using h))
  | loadRegs x => exact completes_loadRegs x (Nat.lt_succ_of_le (by simpa [raisedBy, State.base] using h))
  | draw x y n => exact completes_draw x y n (by simpa [raisedBy, State.base] using h)
  | jump n | jumpOffset n => exact ⟨_, .of_transfer rfl (onlyChanges_setPc s _) rfl rfl rfl⟩
  | skipEqImm | skipNeImm | skipEqReg | skipNeReg =>
    exact ⟨_, .of_skipIf rfl rfl rfl (.refl [] s) rfl rfl rfl⟩
  | skipKeyDown x | skipKeyUp x =>
    exact ⟨_, .of_skipIf rfl rfl rfl (onlyChanges_askKeyDown s (s.reg x)) rfl rfl rfl⟩
  | loadImmediate | addImmediate | move | or | and | xor | readDelay => exact ⟨_, .of_setReg rfl rfl rfl rfl⟩
  | add | sub | shiftRight | subReverse | shiftLeft => exact ⟨_, .of_writeResult rfl rfl rfl⟩
  | loadIndex | addIndex | fontAddr => exact ⟨_, .of_setI rfl rfl rfl rfl⟩
  | random x k =>
    exact ⟨_, .of_advance (exec_random x k s) rfl rfl (onlyChanges_random s x _) rfl nofun id⟩
  | clearScreen =>
    exact ⟨_, .of_advance (exec_clearScreen s) rfl rfl (onlyChanges_record s .displayClear) rfl nofun id⟩
  | setDelay x => exact ⟨_, .of_advance (exec_setDelay x s) rfl rfl (onlyChanges_setDt s _) rfl nofun id⟩
  | setSound x => exact ⟨_, .of_advance (exec_setSound x s) rfl rfl (onlyChanges_setSt s _) rfl nofun id⟩
  | waitKey x => exact ⟨_, completes_waitKey x s⟩

/-- Where the table gives an instruction an error, it is the halt entry with that error (R161, R168). -/
theorem exec_raises {i : Instr} {s : State} {e : ExecError} (h : raisedBy i s = some e) :
    exec i s = .next (s.raise e) := by
  cases i with
  | sysCall n => cases h; exact exec_sysCall n s
  | ret =>
    obtain ⟨hempty, ⟨⟩⟩ := Option.ite_none_right_eq_some.1 h
    exact exec_ret_empty s hempty
  | call n =>
    obtain ⟨hfull, ⟨⟩⟩ := Option.ite_none_right_eq_some.1 h
    exact exec_call_full s n hfull
  | draw x y n =>
    obtain ⟨hout, ⟨⟩⟩ := Option.ite_none_right_eq_some.1 h
    exact exec_draw_outside s x y n hout
  | storeBcd x =>
    obtain ⟨hout, ⟨⟩⟩ := Option.ite_none_right_eq_some.1 h
    exact exec_storeBcd_outside s x hout
  | storeRegs x =>
    obtain ⟨hout, ⟨⟩⟩ := Option.ite_none_right_eq_some.1 h
    exact exec_storeRegs_outside s x hout
  | loadRegs x =>
    obtain ⟨hout, ⟨⟩⟩ := Option.ite_none_right_eq_some.1 h
    exact exec_loadRegs_outside s x hout
  | _ => cases h

/-- Everything `exec` can answer: the halt entry of the table's error, or a completed instruction. -/
theorem exec_cases {i : Instr} {s t : State} (h : exec i s = .next t) :
    (∃ e, raisedBy i s = some e ∧ t = s.raise e) ∨ (raisedBy i s = none ∧ Completes i s t) := by
  cases hr : raisedBy i s with
  | some e =>
    cases (exec_raises hr).symm.trans h
    exact .inl ⟨e, rfl, rfl⟩
  | none =>
    obtain ⟨u, hu⟩ := exec_completes i s hr
    cases hu.exec_eq.symm.trans h
    exact .inr ⟨rfl, hu⟩

end Sys2Proof.Machine
end

section
/-! SUPPORT. What the tables of Sys2Proof/Safety.lean say about each part, and the statements over all instructions. -/

namespace Sys2Proof.Machine

/-! ## Who writes what -/

/-- `Fx0A` is the one instruction that changes the run state when it completes (R33). -/
theorem waitKey_of_run_written {i : Instr} {s : State} (hr : raisedBy i s = none) (h : Part.run ∈ writesIfDone i s) :
    ∃ x, i = .waitKey x := by
  cases i with
  | sysCall => cases hr
  | waitKey x => exact ⟨x, rfl⟩
  | _ => simp [writesIfDone, State.bytesFromI, regsFromV0] at h

/-- `Fx15` is the one instruction that writes `DT` (R154). -/
theorem setDelay_of_dt_written {i : Instr} {s : State} (h : Part.dt ∈ writesIfDone i s) : ∃ x, i = .setDelay x := by
  cases i with
  | setDelay x => exact ⟨x, rfl⟩
  | _ => simp [writesIfDone, State.bytesFromI, regsFromV0] at h

/-- `2nnn` and `00EE` are the two instructions that move `sp` (R102, R104). -/
theorem ret_or_call_of_sp_written {i : Instr} {s : State} (h : Part.sp ∈ writesIfDone i s) :
    i = .ret ∨ ∃ n, i = .call n := by
  cases i with
  | ret => exact .inl rfl
  | call n => exact .inr ⟨n, rfl⟩
  | _ => simp [writesIfDone, State.bytesFromI, regsFromV0] at h

/-- `2nnn` is the one instruction that writes a stack slot (R104). -/
theorem call_of_slot_written {i : Instr} {s : State} {j : Nat} (h : Part.slot j ∈ writesIfDone i s) :
    ∃ n, i = .call n := by
  cases i with
  | call n => exact ⟨n, rfl⟩
  | _ => simp [writesIfDone, State.bytesFromI, regsFromV0] at h

/-- No instruction touches the requests (R9). -/
theorem requests_not_written (i : Instr) (s : State) : Part.requests ∉ writesIfDone i s := by
  cases i with
  | _ => simp [writesIfDone, State.bytesFromI, regsFromV0]

theorem toNat_lt_of_reg_mem_regsFromV0 {r : RegIx} {count : Nat} (hc : count ≤ 16) (h : Part.reg r ∈ regsFromV0 count) :
    r.toNat < count := by
  obtain ⟨j, hj, hr⟩ := List.mem_map.1 h
  have hj' : j < count := List.mem_range.1 hj
  cases hr
  rw [BitVec.toNat_ofNat, Nat.mod_eq_of_lt (by omega)]
  exact hj'

/-- `VF` is written by the six flag writers and by an instruction that names register 15 (R21). -/
theorem vf_not_written {i : Instr} (s : State) (hflag : writesFlag i = false) (hname : namesReg i 15 = false) :
    Part.reg 15 ∉ writesIfDone i s := by
  cases i with
  | add | sub | shiftRight | subReverse | shiftLeft | draw => cases hflag
  | loadImmediate x | addImmediate x | move x | or x | and x | xor x | random x | readDelay x =>
    have hx : ¬ 15#4 = x := fun h => (beq_eq_false_iff_ne.1 hname) h.symm
    simp [writesIfDone, hx]
  | loadRegs x =>
    have hx : ¬ (15 : RegIx).toNat ≤ x.toNat := of_decide_eq_false hname
    intro h
    rcases List.mem_cons.1 h with h | h
    · cases h
    · have hlt := toNat_lt_of_reg_mem_regsFromV0 x.toNat_lt h
      omega
  | _ => simp [writesIfDone, State.bytesFromI]

/-- An advance is at most 4, and it is 0 for `Fx0A` alone (R24). -/
theorem pcAdvance_bound {i : Instr} {ds : List Nat} {d : Nat} (h : pcAdvance i = some ds) (hd : d ∈ ds) :
    d ≤ 4 ∧ (d = 0 → ∃ x, i = .waitKey x) := by
  cases i with
  | sysCall | ret | jump | call | jumpOffset => cases h
  | waitKey x =>
    cases h
    obtain rfl := List.mem_singleton.1 hd
    exact ⟨Nat.zero_le _, fun _ => ⟨x, rfl⟩⟩
  | _ => cases h; simp only [List.mem_cons, List.not_mem_nil, or_false] at hd; exact ⟨by omega, by omega⟩

/-- The control transfers that can complete (R100). -/
theorem transfer_cases {i : Instr} {s : State} (hr : raisedBy i s = none) (h : pcAdvance i = none) :
    i = .ret ∨ (∃ n, i = .call n) ∨ (∃ n, i = .jump n) ∨ ∃ n, i = .jumpOffset n := by
  cases i with
  | sysCall => cases hr
  | ret => exact .inl rfl
  | call n => exact .inr (.inl ⟨n, rfl⟩)
  | jump n => exact .inr (.inr (.inl ⟨n, rfl⟩))
  | jumpOffset n => exact .inr (.inr (.inr ⟨n, rfl⟩))
  | _ => cases h

/-! ## The statements over all instructions -/

/-- An instruction that completes starts a key wait or leaves the run state as it was. -/
theorem Completes.run_cases {i : Instr} {s t : State} (h : Completes i s t) (hr : raisedBy i s = none) :
    (∃ x, i = .waitKey x ∧ t = s.setRun (.awaitingKey x)) ∨ t.run = s.run := by
  by_cases hmem : Part.run ∈ writesIfDone i s
  · obtain ⟨x, rfl⟩ := waitKey_of_run_written hr hmem
    cases (exec_waitKey x s).symm.trans h.exec_eq
    exact .inl ⟨x, rfl, rfl⟩
  · exact .inr (h.frame .run hmem)

/-- Settles O36: the table decides between the halt entry and completion, and completion halts nothing. -/
theorem errorsAreThoseOfTheTable : Obligations.ErrorsAreThoseOfTheTable := by
  intro i s hrun
  cases hr : raisedBy i s with
  | some e =>
    refine ⟨_, exec_raises hr, fun e' he => ?_, nofun⟩
    cases he
    exact ⟨onlyChanges_raise s e, rfl⟩
  | none =>
    obtain ⟨t, ht⟩ := exec_completes i s hr
    refine ⟨t, ht.exec_eq, nofun, fun _ e he => ?_⟩
    obtain ⟨x, -, rfl⟩ | hsame := ht.run_cases hr
    · cases he
    · cases (hsame.trans hrun).symm.trans he

/-- Settles O37: the halt entry changes the run state, completion what the rule names. -/
theorem instructionsChangeOnlyWhatTheyName : Obligations.InstructionsChangeOnlyWhatTheyName := by
  intro i s t h
  obtain ⟨e, hr, rfl⟩ | ⟨hr, ht⟩ := exec_cases h
  · rw [mayWrite, hr]; exact onlyChanges_raise s e
  · rw [mayWrite, hr]; exact ht.frame

/-- Settles O38: the flag writers leave a flag byte; for the others `VF` is outside the frame. -/
theorem onlySixInstructionsWriteTheFlag : Obligations.OnlySixInstructionsWriteTheFlag := by
  intro i s t h hnone
  obtain ⟨e, hr, -⟩ | ⟨-, ht⟩ := exec_cases h
  · cases hnone.symm.trans hr
  · exact ⟨ht.flag, fun hflag hname => ht.frame (.reg 15) (vf_not_written s hflag hname)⟩

/-- Settles O39: the halt entry keeps `pc`, completion advances it by the class. -/
theorem programCounterClasses : Obligations.ProgramCounterClasses := by
  intro i s t h
  obtain ⟨e, hr, rfl⟩ | ⟨hr, ht⟩ := exec_cases h
  · exact ⟨fun _ _ => rfl, fun hnone => nomatch hnone.symm.trans hr⟩
  · exact ⟨fun e he => (nomatch he.symm.trans hr), fun _ => ht.advance⟩

end Sys2Proof.Machine
end

section
/-! SUPPORT. What a step can do (spec/60_exceptions.md R160, R167, R168, R172, R175; spec/00_scope.md R8, R9): the oldest
request is taken off the list and served. Every outcome of a cycle is one of the three of `CycleStep`. -/

namespace Sys2Proof.Machine

/-! ## The request that is served -/

theorem State.nextRequest_cons {s : State} {r : Request} {rest : List Request} (h : s.ports.requests = r :: rest) :
    s.nextRequest = r := by
  rw [State.nextRequest, h, List.headD_cons]

theorem step_of_nextRequest {s : State} {r : Request} (h : s.nextRequest = r) : step s = serve r s.takeRequest := by
  rw [step, h]

/-- The frame of a step: that of serving the request, and the request list. -/
theorem OnlyChanges.of_takeRequest {ps : List Part} {s t : State} (h : OnlyChanges ps s.takeRequest t) :
    OnlyChanges (ps ++ [.requests]) s t :=
  ((onlyChanges_takeRequest s).mono (List.subset_append_right _ _)).trans h (List.subset_append_left _ _)

/-! ## The cycle -/

theorem State.fetch_ok {s : State} (h : s.pc.toNat + 1 < 4096) : s.fetch = .ok s.wordAtPc := by
  obtain ⟨-, hread⟩ | ⟨hout, -⟩ := memReadWord_cases s.mem s.pc.toNat
  · exact hread
  · omega

theorem State.fetch_error {s : State} (h : 4096 ≤ s.pc.toNat + 1) : s.fetch = .error .addressOutOfRange := by
  obtain ⟨hin, -⟩ | ⟨-, hread⟩ := memReadWord_cases s.mem s.pc.toNat
  · omega
  · exact hread

theorem cycle_of_not_running {s : State} (h : s.run ≠ .running) : cycle s = .next s := by
  rw [cycle]
  split
  · exact absurd ‹_› h
  · rfl
  · rfl

/-- R162, R167: a fetch that leaves memory halts. -/
theorem cycle_of_fetch_error {s : State} (hrun : s.run = .running) (h : 4096 ≤ s.pc.toNat + 1) :
    cycle s = .next (s.raise .addressOutOfRange) := by
  simp only [cycle, hrun, State.fetch_error h]

/-- R160: a word that is fetched is decoded and executed. -/
theorem cycle_of_fetch {s : State} (hrun : s.run = .running) (h : s.pc.toNat + 1 < 4096) :
    cycle s = execDecoded (decode s.wordAtPc) s := by
  simp only [cycle, hrun, State.fetch_ok h]

/-- R163: a word that is no shape halts. -/
theorem cycle_of_invalid {s : State} {code : Word} (hrun : s.run = .running) (h : s.pc.toNat + 1 < 4096)
    (hdec : decode s.wordAtPc = .invalid code) : cycle s = .next (s.raise (.invalidOpcode code)) := by
  rw [cycle_of_fetch hrun h, hdec, execDecoded]

theorem cycle_of_at {s : State} {i : Instr} (hrun : s.run = .running) (hat : s.At i) : cycle s = exec i s := by
  obtain ⟨hpc, hdec⟩ := hat
  rw [cycle_of_fetch hrun hpc, hdec, execDecoded]

/-- The three things a cycle can do: nothing, where the machine does not run; the halt entry; the instruction at `pc`,
completed. -/
inductive CycleStep (s : State) : State → Prop
  | idle (hrun : s.run ≠ .running) : CycleStep s s
  | raises (hrun : s.run = .running) (e : ExecError) : CycleStep s (s.raise e)
  | completes {i : Instr} {t : State} (hrun : s.run = .running) (hat : s.At i) (hr : raisedBy i s = none)
      (h : Completes i s t) : CycleStep s t

/-- Every cycle answers a next state, by one of the three ways of `CycleStep`. -/
theorem cycle_next (s : State) : ∃ t, cycle s = .next t ∧ CycleStep s t := by
  by_cases hrun : s.run = .running
  · rcases Nat.lt_or_ge (s.pc.toNat + 1) 4096 with hpc | hpc
    · cases hdec : decode s.wordAtPc with
      | invalid code => exact ⟨_, cycle_of_invalid hrun hpc hdec, .raises hrun _⟩
      | shape i =>
        rw [cycle_of_at hrun ⟨hpc, hdec⟩]
        cases hr : raisedBy i s with
        | some e => exact ⟨_, exec_raises hr, .raises hrun e⟩
        | none =>
          obtain ⟨t, ht⟩ := exec_completes i s hr
          exact ⟨t, ht.exec_eq, .completes hrun ⟨hpc, hdec⟩ hr ht⟩
    · exact ⟨_, cycle_of_fetch_error hrun hpc, .raises hrun _⟩
  · exact ⟨s, cycle_of_not_running hrun, .idle hrun⟩

theorem CycleStep.of_cycle {s t : State} (h : cycle s = .next t) : CycleStep s t := by
  obtain ⟨u, hu, hstep⟩ := cycle_next s
  cases hu.symm.trans h
  exact hstep

/-! ## Key events, timer ticks, construction -/

/-- A key event that ends a wait (R172). -/
theorem State.resume_awaiting {s : State} {x : RegIx} (key : Nibble) (h : s.run = .awaitingKey x) :
    s.resume key = ((s.setReg x (zextKey key)).advance).setRun .running := by
  simp only [State.resume, h]

/-- A key event out of turn (R172, log 19). -/
theorem State.resume_not_awaiting {s : State} (key : Nibble) (h : ∀ x, s.run ≠ .awaitingKey x) : s.resume key = s := by
  rw [State.resume]
  split
  · exact absurd ‹_› (h _)
  · rfl
  · rfl

@[simp] theorem State.resume_dt (s : State) (key : Nibble) : (s.resume key).dt = s.dt := by
  rw [State.resume]
  split <;> rfl

@[simp] theorem State.resume_ports (s : State) (key : Nibble) : (s.resume key).ports = s.ports := by
  rw [State.resume]
  split <;> rfl

@[simp] theorem toNat_zextKey (key : Nibble) : (zextKey key).toNat = key.toNat := BitVec.toNat_setWidth_of_le (by decide)

/-- R175: one less, and 0 stays. -/
theorem toNat_countDown (b : Byte) : (countDown b).toNat = b.toNat - 1 := by
  have hb : b.toNat < 256 := b.isLt
  rw [countDown]
  split
  · rw [BitVec.toNat_ofNat, Nat.mod_eq_of_lt (by omega)]
  · omega

theorem onlyChanges_timerTick (s : State) : OnlyChanges [.dt, .st] s s.timerTick :=
  ((onlyChanges_setDt s _).mono (by simp)).trans (onlyChanges_setSt _ _) (by simp)

/-- A construction with an image that fits (R190, R192). -/
theorem construct_ok (font : Vector Byte 80) {program : List Byte} (s : State) (h : program.length ≤ 3584) :
    construct font program s = .next ((State.reset.setMem
      ((Memory.putAll [] 0x050 font.toList).putAll 0x200 program)).setPorts s.ports) := by
  rw [construct, loader_ok font program _ h]
  rfl

/-- A construction with an image that does not fit (R193). -/
theorem construct_too_long (font : Vector Byte 80) {program : List Byte} (s : State) (h : 3584 < program.length) :
    construct font program s = .refused .programImageTooLong := by
  rw [construct, loader_error font program _ h]

/-! ## The statements about single requests -/

/-- Settles O34: the step is the cycle on the state without the request, and the cycle executes what is at `pc`. -/
theorem stepRunsTheDecodedInstruction : Obligations.StepRunsTheDecodedInstruction := by
  intro i s hrun hnext hat
  have hstep : step s = exec i s.takeRequest := (step_of_nextRequest hnext).trans (cycle_of_at (s := s.takeRequest) hrun hat)
  exact ⟨hstep, fun hnil => by rwa [State.takeRequest_of_nil s hnil] at hstep⟩

/-- Settles O35: both errors are halt entries of the cycle. -/
theorem fetchAndDecodeErrorsHalt : Obligations.FetchAndDecodeErrorsHalt := by
  intro s hrun hnext
  have hstep : step s = cycle s.takeRequest := step_of_nextRequest hnext
  refine ⟨fun hpc => ⟨_, hstep.trans (cycle_of_fetch_error (s := s.takeRequest) hrun (Nat.succ_le_succ hpc)),
      (onlyChanges_raise _ _).of_takeRequest, rfl⟩, fun code hpc hdec => ?_⟩
  exact ⟨_, hstep.trans (cycle_of_invalid (s := s.takeRequest) hrun (Nat.lt_succ_of_le (Nat.succ_le_succ hpc)) hdec),
    (onlyChanges_raise _ _).of_takeRequest, rfl⟩

/-- Settles O52: the key event is `State.resume_awaiting`. -/
theorem keyEventResumesEveryWait : Obligations.KeyEventResumesEveryWait := by
  intro x key rest s hrun hreq
  have hstep : step s = .next (((s.takeRequest.setReg x (zextKey key)).advance).setRun .running) :=
    (step_of_nextRequest (State.nextRequest_cons hreq)).trans
      (congrArg Host.Outcome.next (State.resume_awaiting (s := s.takeRequest) key hrun))
  have hframe : OnlyChanges [.pc, .reg x, .run] s.takeRequest
      (((s.takeRequest.setReg x (zextKey key)).advance).setRun .running) :=
    ((onlyChanges_setReg _ x _).advance.mono (by simp)).trans (onlyChanges_setRun _ _) (by simp)
  refine ⟨_, hstep, rfl, hframe.of_takeRequest, advancesBy_advance rfl, ?_, congrArg List.tail hreq⟩
  rw [State.setRun_reg, State.advance_reg, State.reg_setReg, if_pos rfl, toNat_zextKey]

/-- Settles O33: the cycle executes the `Fx0A` at `pc`, and the key event finds the wait it began. -/
theorem keyEventEndsTheWait : Obligations.KeyEventEndsTheWait := by
  intro x key rest s hrun hat hreq
  obtain ⟨hexec, -⟩ := stepRunsTheDecodedInstruction (.waitKey x) s hrun (State.nextRequest_cons hreq) hat
  have hframe : OnlyChanges [.run, .requests] s (s.takeRequest.setRun (.awaitingKey x)) :=
    (onlyChanges_setRun s.takeRequest _).of_takeRequest
  obtain ⟨u, hu, hrunU, hframeU, hpc, hkey, hrest⟩ := keyEventResumesEveryWait x key rest
    (s.takeRequest.setRun (.awaitingKey x)) rfl (congrArg List.tail hreq)
  exact ⟨_, u, hexec.trans (exec_waitKey x _), rfl, hframe, hu, hrunU,
    ((hframe.mono (by simp)).trans hframeU (List.Subset.refl _)).except (p := .run) (hrunU.trans hrun.symm) (by simp),
    hpc, hkey, hrest⟩

/-- Settles O42: a machine that runs is not waiting. -/
theorem earlyKeyEventIsDropped : Obligations.EarlyKeyEventIsDropped := by
  intro key rest s hrun hreq
  have hdrop : s.takeRequest.resume key = s.takeRequest :=
    State.resume_not_awaiting key fun x hx => nomatch hrun.symm.trans hx
  exact ⟨_, (step_of_nextRequest (State.nextRequest_cons hreq)).trans (congrArg Host.Outcome.next hdrop),
    onlyChanges_takeRequest s, congrArg List.tail hreq⟩

/-- Settles O43: the tick counts both timers down. -/
theorem timerTickCountsDown : Obligations.TimerTickCountsDown := fun _ s hreq =>
  ⟨_, step_of_nextRequest (State.nextRequest_cons hreq), (onlyChanges_timerTick s.takeRequest).of_takeRequest,
    congrArg List.tail hreq, toNat_countDown s.dt, toNat_countDown s.st⟩

/-- Settles O41: the cycle is idle, the key event finds no wait, and the tick has its own frame. -/
theorem onlyTimersMoveWhileWaitingOrHalted : Obligations.OnlyTimersMoveWhileWaitingOrHalted := by
  intro s hstopped
  have hrun : s.takeRequest.run ≠ .running := by
    obtain ⟨x, hx⟩ | ⟨e, he⟩ := hstopped
    · exact fun h => nomatch h.symm.trans hx
    · exact fun h => nomatch h.symm.trans he
  refine ⟨fun hnext => ⟨_, (step_of_nextRequest hnext).trans (cycle_of_not_running hrun), onlyChanges_takeRequest s⟩,
    fun e key he hnext => ?_,
    fun hnext => ⟨_, step_of_nextRequest hnext, (onlyChanges_timerTick s.takeRequest).of_takeRequest⟩⟩
  have hdrop : s.takeRequest.resume key = s.takeRequest :=
    State.resume_not_awaiting key fun x hx => nomatch he.symm.trans hx
  exact ⟨_, (step_of_nextRequest hnext).trans (congrArg Host.Outcome.next hdrop), onlyChanges_takeRequest s⟩

/-! ## The statements about every request -/

/-- Settles O40: the cycle, the key event and the tick always answer a next state; the construction refuses by the length. -/
theorem stepsNeverFault : Obligations.StepsNeverFault := by
  intro s
  cases hnext : s.nextRequest with
  | cycle =>
    obtain ⟨t, ht, -⟩ := cycle_next s.takeRequest
    exact .inl ⟨t, (step_of_nextRequest hnext).trans ht⟩
  | keyEvent key => exact .inl ⟨_, step_of_nextRequest hnext⟩
  | timerTick => exact .inl ⟨_, step_of_nextRequest hnext⟩
  | construct font program =>
    rcases Nat.lt_or_ge 3584 program.length with hlong | hfits
    · exact .inr ⟨(step_of_nextRequest hnext).trans (construct_too_long font _ hlong), font, program, rfl, hlong⟩
    · exact .inl ⟨_, (step_of_nextRequest hnext).trans (construct_ok font _ hfits)⟩

/-- A cycle leaves the requests as they are. -/
theorem CycleStep.requests {s t : State} (h : CycleStep s t) : t.ports.requests = s.ports.requests := by
  cases h with
  | idle | raises => rfl
  | completes _ _ _ hc => exact hc.frame .requests (requests_not_written _ s)

/-- A construction that answers a next state: the image fits. -/
theorem construct_next {font : Vector Byte 80} {program : List Byte} {s t : State}
    (h : construct font program s = .next t) : program.length ≤ 3584 ∧
      t = (State.reset.setMem ((Memory.putAll [] 0x050 font.toList).putAll 0x200 program)).setPorts s.ports := by
  rcases Nat.lt_or_ge 3584 program.length with hlong | hfits
  · cases (construct_too_long font s hlong).symm.trans h
  · cases (construct_ok font s hfits).symm.trans h
    exact ⟨hfits, rfl⟩

/-- Serving a request leaves the later ones as they are. -/
theorem serve_requests {r : Request} {s t : State} (h : serve r s = .next t) :
    t.ports.requests = s.ports.requests := by
  cases r with
  | cycle => exact (CycleStep.of_cycle h).requests
  | keyEvent key => cases h; rw [State.resume_ports]
  | timerTick => cases h; rfl
  | construct font program =>
    obtain ⟨-, rfl⟩ := construct_next h
    rfl

/-- Settles O45: the state without its oldest request is the one that request is served on. -/
theorem stepsServeRequestsInOrder : Obligations.StepsServeRequestsInOrder := by
  intro s
  refine ⟨fun r rest hreq => ?_, fun hnil => ?_, fun t ht => serve_requests ht⟩
  · rw [step_of_nextRequest (State.nextRequest_cons hreq), State.takeRequest, hreq, List.tail_cons]
  · rw [step, State.takeRequest_of_nil s hnil, State.nextRequest, hnil]
    rfl

theorem Completes.dt_cases {i : Instr} {s t : State} (h : Completes i s t) :
    (∃ x, i = .setDelay x) ∨ t.dt = s.dt := by
  by_cases hmem : Part.dt ∈ writesIfDone i s
  · exact .inl (setDelay_of_dt_written hmem)
  · exact .inr (h.frame .dt hmem)

/-- Settles O44: `Fx15` is the one instruction that writes `DT`, and a tick only lowers it. -/
theorem delayTimerOnlyRunsDown : Obligations.DelayTimerOnlyRunsDown := by
  intro s t hstep hlt
  cases hnext : s.nextRequest with
  | construct font program => exact .inr ⟨font, program, rfl⟩
  | keyEvent key =>
    cases (step_of_nextRequest hnext).symm.trans hstep
    rw [State.resume_dt] at hlt
    exact absurd hlt (Nat.lt_irrefl _)
  | timerTick =>
    cases (step_of_nextRequest hnext).symm.trans hstep
    have hdt : (s.takeRequest.timerTick).dt.toNat = s.dt.toNat - 1 := toNat_countDown s.dt
    omega
  | cycle =>
    have hcycle : CycleStep s.takeRequest t := .of_cycle ((step_of_nextRequest hnext).symm.trans hstep)
    cases hcycle with
    | idle | raises => exact absurd hlt (Nat.lt_irrefl _)
    | completes hrun hat _ hc =>
      obtain ⟨x, rfl⟩ | hdt := hc.dt_cases
      · exact .inl ⟨x, hat, hrun, rfl⟩
      · rw [hdt] at hlt
        exact absurd hlt (Nat.lt_irrefl _)

end Sys2Proof.Machine
end

section
/-! SUPPORT. The reset state and the construction of a new machine (spec/10_state.md R38, spec/70_reset_and_hazards.md R190 to
R193), and the answers the surroundings can give (spec/60_exceptions.md R176 to R178). -/

namespace Sys2Proof.Machine

/-! ## Reset and construction -/

@[simp] theorem State.reg_reset (r : RegIx) : State.reset.reg r = 0 := Vector.getElem_replicate _

theorem State.stack_reset {j : Nat} (h : j < 16) : State.reset.stack[j]? = some 0 :=
  Vector.getElem?_replicate_of_lt h

/-- Settles O47: every register file is a replicated 0 and memory lists nothing. -/
theorem resetValues : Obligations.ResetValues :=
  ⟨rfl, rfl, rfl, State.reg_reset, rfl, rfl, rfl, fun _ => State.stack_reset, fun _ => rfl⟩

/-- The memory of a newly constructed machine (R192). -/
def loadedMemory (font : Vector Byte 80) (program : List Byte) : Memory :=
  (Memory.putAll [] 0x050 font.toList).putAll 0x200 program

/-- The font lies below the image (R192). -/
theorem get_loadedMemory_font (font : Vector Byte 80) (program : List Byte) {j : Nat} (hj : j < 80) :
    font[j]? = some ((loadedMemory font program).get (0x050 + j)) := by
  rw [loadedMemory, Memory.get_putAll_outside _ (.inl (by omega)),
    ← Memory.getElem?_of_putAll _ _ (by rwa [Vector.length_toList]), Vector.getElem?_toList]

theorem get_loadedMemory_program (font : Vector Byte 80) {program : List Byte} {j : Nat} (hj : j < program.length) :
    program[j]? = some ((loadedMemory font program).get (0x200 + j)) :=
  Memory.getElem?_of_putAll _ _ hj

/-- Outside the font and the image memory reads 0 (R38, R192). -/
theorem get_loadedMemory_outside (font : Vector Byte 80) {program : List Byte} {a : Nat}
    (h : a < 0x050 ∨ (0x0A0 ≤ a ∧ a < 0x200) ∨ 0x200 + program.length ≤ a) : (loadedMemory font program).get a = 0 := by
  rw [loadedMemory, Memory.get_putAll_outside _ (by omega),
    Memory.get_putAll_outside _ (by rw [Vector.length_toList]; omega)]
  rfl

theorem wf_loadedMemory (font : Vector Byte 80) {program : List Byte} (h : program.length ≤ 3584) :
    (loadedMemory font program).wf := by
  refine Memory.wf_putAll (Memory.wf_putAll Memory.wf_nil (.inl ?_)) (.inl ?_)
  · rw [Vector.length_toList]; decide
  · rw [Config.memSize]; omega

/-- Settles O48: the construction is the reset state with the loaded memory, or the refusal. -/
theorem constructionLoadsFontAndProgram : Obligations.ConstructionLoadsFontAndProgram := by
  intro font program rest s hreq
  have hstep : step s = construct font program s.takeRequest := step_of_nextRequest (State.nextRequest_cons hreq)
  refine ⟨fun hlong => hstep.trans (construct_too_long font _ hlong),
    fun hfits => ⟨_, hstep.trans (construct_ok font _ hfits), ?_⟩⟩
  exact ⟨rfl, rfl, rfl, State.reg_reset, rfl, rfl, rfl, fun _ => State.stack_reset, congrArg List.tail hreq,
    fun j hj => get_loadedMemory_font font program hj, fun j hj => get_loadedMemory_program font hj,
    fun a ha => get_loadedMemory_outside font ha⟩

/-! ## The answers of the surroundings -/

/-- A byte without a bit outside the mask is its own masked value. -/
theorem and_eq_self_of_and_not_eq_zero {v k : Byte} (h : v &&& ~~~k = 0) : v &&& k = v := by
  calc v &&& k = (v &&& k) ||| (v &&& ~~~k) := by rw [h]; exact (BitVec.or_zero).symm
    _ = v := by rw [← BitVec.and_or_distrib_left, BitVec.or_not_self, BitVec.and_allOnes]

/-- Settles O46: the wanted answer is listed first; `ExA1` wants the negation of its skip. -/
theorem everyAnswerIsPossible : Obligations.EveryAnswerIsPossible := by
  intro s
  refine ⟨fun x k v hv => ⟨[v], _, exec_random x k _, ?_⟩,
    fun x skip => ⟨[skip], _, exec_skipKeyDown x _, advancesBy_skipIf (State.askKeyDown _ _) Iff.rfl⟩,
    fun x skip => ⟨[!skip], _, exec_skipKeyUp x _, advancesBy_skipIf (State.askKeyDown _ _) ?_⟩,
    fun x y n hit hr => ⟨[hit], _, exec_draw_inside _ x y n ?_, ?_⟩⟩
  · rw [State.advance_reg, State.reg_setReg, if_pos rfl]
    exact and_eq_self_of_and_not_eq_zero hv
  · show (!!skip) = true ↔ skip = true
    rw [Bool.not_not]
  · simpa [raisedBy, State.base] using hr
  · rw [State.advance_reg, State.reg_writeFlag_vf, toNat_flagByte]
    rfl

end Sys2Proof.Machine
end

section
/-! SUPPORT. The invariants (spec/10_state.md R37) and the fixed points (spec/70_reset_and_hazards.md R202). -/

namespace Sys2Proof.Machine

/-! ## What a completed instruction does to `pc` and to the call stack -/

/-- A control transfer that completes: the new `pc` is a live entry or a target, and `sp` moves for the first two alone. -/
inductive Transfer (s t : State) : Instr → Prop
  | ret (hlive : 0 < s.sp.val) (hsp : t.sp.val = s.sp.val - 1) (htop : s.stack[s.sp.val - 1]? = some t.pc) :
      Transfer s t .ret
  | call (n : Imm12) (hsp : t.sp.val = s.sp.val + 1) (hslot : t.stack[s.sp.val]? = some (s.pc + 2))
      (hpc : t.pc.toNat = n.toNat) : Transfer s t (.call n)
  | jump (n : Imm12) (hpc : t.pc.toNat = n.toNat) : Transfer s t (.jump n)
  | jumpOffset (n : Imm12) (hpc : t.pc.toNat = n.toNat + (s.reg 0).toNat) : Transfer s t (.jumpOffset n)

/-- An instruction without a class of advance that completes is a control transfer (R24, R100). -/
theorem Completes.transfer {i : Instr} {s t : State} (h : Completes i s t) (hr : raisedBy i s = none)
    (hd : pcAdvance i = none) : Transfer s t i := by
  obtain rfl | ⟨n, rfl⟩ | ⟨n, rfl⟩ | ⟨n, rfl⟩ := transfer_cases hr hd
  · have hlive : 0 < s.sp.val := by simpa [raisedBy, Nat.pos_iff_ne_zero] using hr
    obtain ⟨u, hu, -, hsp, htop⟩ := returnPopsIntoPc s hlive
    cases hu.symm.trans h.exec_eq
    exact .ret hlive hsp htop
  · have hne : s.sp.val ≠ 16 := by simpa [raisedBy] using hr
    obtain ⟨u, hu, -, hsp, hslot, hpc⟩ := callPushesTheNextAddress n s (by omega)
    cases hu.symm.trans h.exec_eq
    exact .call n hsp hslot hpc
  · cases (exec_jump n s).symm.trans h.exec_eq
    exact .jump n (toNat_zextImm n)
  · cases (exec_jumpOffset n s).symm.trans h.exec_eq
    exact .jumpOffset n (toNat_zextImm_add_zextReg n (s.reg 0))

/-- How a completed instruction moves `pc`: by at most 4, and not at all for `Fx0A` alone, or as a control transfer. -/
theorem Completes.pc_cases {i : Instr} {s t : State} (h : Completes i s t) (hr : raisedBy i s = none) :
    (∃ d, AdvancesBy d s t ∧ d ≤ 4 ∧ (d = 0 → ∃ x, i = .waitKey x)) ∨ Transfer s t i := by
  cases hd : pcAdvance i with
  | none => exact .inr (h.transfer hr hd)
  | some ds =>
    obtain ⟨d, hmem, hadv⟩ := h.advance ds hd
    exact .inl ⟨d, hadv, pcAdvance_bound hd hmem⟩

/-- How a completed instruction moves the call stack: it is a `2nnn` or a `00EE`, or neither `sp` nor a slot changes. -/
theorem Completes.stack_cases {i : Instr} {s t : State} (h : Completes i s t) :
    (∃ n, i = .call n) ∨ (i = .ret ∧ ∀ j : Nat, t.stack[j]? = s.stack[j]?) ∨
      (t.sp = s.sp ∧ ∀ j : Nat, t.stack[j]? = s.stack[j]?) := by
  by_cases hcall : ∃ n, i = .call n
  · exact .inl hcall
  have hslots : ∀ j : Nat, t.stack[j]? = s.stack[j]? := fun j =>
    h.frame (.slot j) fun hmem => hcall (call_of_slot_written hmem)
  by_cases hmem : Part.sp ∈ writesIfDone i s
  · exact .inr (.inl ⟨(ret_or_call_of_sp_written hmem).resolve_right hcall, hslots⟩)
  · exact .inr (.inr ⟨h.frame .sp hmem, hslots⟩)

/-! ## The invariants, field by field -/

theorem State.At.of_same {s t : State} {i : Instr} (h : s.At i) (hpc : t.pc = s.pc) (hmem : t.mem = s.mem) : t.At i := by
  unfold State.At State.wordAtPc State.byte at *
  rwa [hpc, hmem]

/-- A change outside `pc`, the call stack and memory that begins no wait keeps the invariants. -/
theorem State.Inv.of_same {s t : State} (h : s.Inv) (hpc : t.pc = s.pc) (hsp : t.sp = s.sp) (hstack : t.stack = s.stack)
    (hmem : t.mem = s.mem) (hrun : ∀ x, t.run = .awaitingKey x → s.run = .awaitingKey x) : t.Inv where
  pc_le := hpc ▸ h.pc_le
  live := by rw [hsp, hstack]; exact h.live
  awaiting x hx := (h.awaiting x (hrun x hx)).of_same hpc hmem
  mem_wf := hmem ▸ h.mem_wf

/-- R25: an instruction was fetched below `0xFFF`, an immediate is at most `0xFFF` and `V0` at most `0xFF`, and a live entry
is at most `0x1000`. -/
theorem Completes.pc_le {i : Instr} {s t : State} (h : Completes i s t) (hr : raisedBy i s = none) (hinv : s.Inv)
    (hat : s.At i) : t.pc.toNat ≤ 0x10FE := by
  obtain ⟨hfetch, -⟩ := hat
  obtain ⟨d, hadv, hle, -⟩ | htransfer := h.pc_cases hr
  · rw [AdvancesBy] at hadv
    omega
  · cases htransfer with
    | ret hlive _ htop =>
      obtain ⟨-, hle⟩ := hinv.live _ _ (Nat.sub_lt hlive Nat.one_pos) htop
      omega
    | call n _ _ hpc | jump n hpc =>
      have hn : n.toNat < 4096 := n.isLt
      omega
    | jumpOffset n hpc =>
      have hn : n.toNat < 4096 := n.isLt
      have hv : (s.reg 0).toNat < 256 := (s.reg 0).isLt
      omega

/-- R37: the entry a call pushes is the address after an instruction that was fetched; every other live entry was live. -/
theorem Completes.live {i : Instr} {s t : State} (h : Completes i s t) (hr : raisedBy i s = none) (hinv : s.Inv)
    (hat : s.At i) (j : Nat) (a : Word) (hj : j < t.sp.val) (ha : t.stack[j]? = some a) :
    0x0002 ≤ a.toNat ∧ a.toNat ≤ 0x1000 := by
  obtain ⟨hfetch, -⟩ := hat
  obtain ⟨n, rfl⟩ | ⟨rfl, hslots⟩ | ⟨hsp, hslots⟩ := h.stack_cases
  · cases h.transfer hr rfl with
    | call _ hsp hslot _ =>
      by_cases hnew : j = s.sp.val
      · obtain rfl : s.pc + 2 = a := Option.some.inj (hslot.symm.trans (hnew ▸ ha))
        rw [BitVec.toNat_add]
        show 2 ≤ (s.pc.toNat + 2) % 65536 ∧ (s.pc.toNat + 2) % 65536 ≤ 4096
        omega
      · have hold : t.stack[j]? = s.stack[j]? := h.frame (.slot j) (by simp [writesIfDone, hnew])
        exact hinv.live j a (by omega) (hold.symm.trans ha)
  · cases h.transfer hr rfl with
    | ret _ hsp _ => exact hinv.live j a (by omega) ((hslots j).symm.trans ha)
  · exact hinv.live j a (hsp ▸ hj) ((hslots j).symm.trans ha)

/-- R33: the wait that `Fx0A` begins leaves `pc` and memory, so that it stands at the instruction that waits. -/
theorem Completes.awaiting {i : Instr} {s t : State} (h : Completes i s t) (hr : raisedBy i s = none)
    (hrun : s.run = .running) (hat : s.At i) (x : RegIx) (hx : t.run = .awaitingKey x) : t.At (.waitKey x) := by
  obtain ⟨y, rfl, rfl⟩ | hsame := h.run_cases hr
  · cases hx
    exact hat.of_same rfl rfl
  · cases (hsame.trans hrun).symm.trans hx

theorem CycleStep.inv {s t : State} (h : CycleStep s t) (hinv : s.Inv) : t.Inv := by
  cases h with
  | idle => exact hinv
  | raises hrun e => exact hinv.of_same rfl rfl rfl rfl nofun
  | completes hrun hat hr hc =>
    exact ⟨hc.pc_le hr hinv hat, hc.live hr hinv hat, hc.awaiting hr hrun hat, hc.mem_wf hinv.mem_wf⟩

/-- R172: a machine that waits stands at an instruction inside memory, so the advance stays in range. -/
theorem State.Inv.resume {s : State} (h : s.Inv) (key : Nibble) : (s.resume key).Inv := by
  by_cases hwait : ∃ x, s.run = .awaitingKey x
  · obtain ⟨x, hx⟩ := hwait
    obtain ⟨hfetch, -⟩ := h.awaiting x hx
    rw [State.resume_awaiting key hx]
    refine ⟨?_, h.live, nofun, h.mem_wf⟩
    rw [State.setRun_pc, State.advance_pc, State.setReg_pc, BitVec.toNat_add]
    show (s.pc.toNat + 2) % 65536 ≤ 0x10FE
    omega
  · rwa [State.resume_not_awaiting key fun x hx => hwait ⟨x, hx⟩]

/-- A state at `0x200` that runs, with no live entry and a canonical memory, meets the invariants: reset, and every
newly constructed machine. -/
theorem State.Inv.of_reset {m : Memory} (p : Ports) (h : m.wf) : ((State.reset.setMem m).setPorts p).Inv where
  pc_le := show (0x200 : Nat) ≤ 0x10FE by decide
  live j _ hj := absurd hj (Nat.not_lt_zero j)
  awaiting := nofun
  mem_wf := h

/-- Settles O50: the reset state lists no memory. -/
theorem resetMeetsTheInvariants : Obligations.ResetMeetsTheInvariants := State.Inv.of_reset Ports.reset Memory.wf_nil

/-- Settles O49: by the request that is served, on the state without it. -/
theorem everyStepKeepsTheInvariants : Obligations.EveryStepKeepsTheInvariants := by
  intro s t hinv hstep
  have htake : s.takeRequest.Inv := hinv.of_same rfl rfl rfl rfl fun _ => id
  cases hnext : s.nextRequest with
  | cycle => exact (CycleStep.of_cycle ((step_of_nextRequest hnext).symm.trans hstep)).inv htake
  | keyEvent key =>
    cases (step_of_nextRequest hnext).symm.trans hstep
    exact htake.resume key
  | timerTick =>
    cases (step_of_nextRequest hnext).symm.trans hstep
    exact htake.of_same rfl rfl rfl rfl fun _ => id
  | construct font program =>
    obtain ⟨hfits, rfl⟩ := construct_next ((step_of_nextRequest hnext).symm.trans hstep)
    exact .of_reset _ (wf_loadedMemory font hfits)

/-! ## Fixed points -/

/-- An instruction that completes in the very same state is a jump to itself: every advance moves `pc`, `Fx0A` stops the
run, and `2nnn` and `00EE` move `sp`. -/
theorem Completes.jump_of_fixed {i : Instr} {s : State} (h : Completes i s s) (hr : raisedBy i s = none)
    (hrun : s.run = .running) :
    (∃ n, i = .jump n ∧ n.toNat = s.pc.toNat) ∨ ∃ n, i = .jumpOffset n ∧ n.toNat + (s.reg 0).toNat = s.pc.toNat := by
  obtain ⟨d, hadv, hle, hzero⟩ | htransfer := h.pc_cases hr
  · rw [AdvancesBy] at hadv
    obtain ⟨x, rfl⟩ := hzero (by omega)
    have hstop : s.setRun (.awaitingKey x) = s := Host.Outcome.next.inj ((exec_waitKey x s).symm.trans h.exec_eq)
    cases hrun.symm.trans (congrArg State.run hstop).symm
  · cases htransfer with
    | ret | call => omega
    | jump n hpc => exact .inl ⟨n, rfl, hpc.symm⟩
    | jumpOffset n hpc => exact .inr ⟨n, rfl, hpc.symm⟩

/-- A write of the value that `pc` has changes nothing. -/
theorem State.setPc_eq_self {s : State} {w : Word} (h : w.toNat = s.pc.toNat) : s.setPc w = s := by
  rw [BitVec.eq_of_toNat_eq h]
  rfl

/-- A cycle of a running machine that answers the very same state: a halt entry would have stopped the run. -/
theorem CycleStep.jump_of_fixed {s t : State} (h : CycleStep s t) (hrun : s.run = .running) (hfix : t = s) :
    (∃ n, s.At (.jump n) ∧ n.toNat = s.pc.toNat) ∨
      ∃ n, s.At (.jumpOffset n) ∧ n.toNat + (s.reg 0).toNat = s.pc.toNat := by
  cases h with
  | idle hne => exact absurd hrun hne
  | raises _ e => cases hrun.symm.trans (congrArg State.run hfix).symm
  | completes _ hat hr hc =>
    subst hfix
    obtain ⟨n, rfl, hn⟩ | ⟨n, rfl, hn⟩ := hc.jump_of_fixed hr hrun
    · exact .inl ⟨n, hat, hn⟩
    · exact .inr ⟨n, hat, hn⟩

/-- Settles O51: with no request listed the step is a cycle, and a jump to itself writes the value `pc` has. -/
theorem fixedPointsAreJumpsToThemselves : Obligations.FixedPointsAreJumpsToThemselves := by
  intro s hrun hnil
  obtain ⟨-, hcycle, -⟩ := stepsServeRequestsInOrder s
  rw [hcycle hnil]
  refine ⟨fun hfix => (CycleStep.of_cycle hfix).jump_of_fixed hrun rfl, ?_⟩
  rintro (⟨n, hat, hn⟩ | ⟨n, hat, hn⟩)
  · rw [cycle_of_at hrun hat, exec_jump, State.setPc_eq_self ((toNat_zextImm n).trans hn)]
  · rw [cycle_of_at hrun hat, exec_jumpOffset, State.setPc_eq_self ((toNat_zextImm_add_zextReg n _).trans hn)]

end Sys2Proof.Machine
end
